-- ==== Sys2Proof/Word.lean ====
section
/-! DEFINITION. The two register widths of the core (00_scope.md R7, R10): unsigned numbers of
8 and 16 bits. `pc`, image indices and `InstrCount` are natural numbers (10_state.md R27), not words. -/

namespace Sys2Proof

/-- An 8-bit value: a byte register, a byte of the image, an `imm8`. -/
abbrev Byte := BitVec 8

/-- A 16-bit value: a general or segment register, an offset, an `imm16`. -/
abbrev Word := BitVec 16

end Sys2Proof
end

