-- ==== Sys2Proof/Syntax.lean ====
section
/-! DEFINITION. The syntax of instructions: one constructor of `Instr` per row of
spec/opcode_table.json (30_encoding.md R97, R113), and the operands they carry. -/

namespace Sys2Proof

/-- The 16-bit general registers, in the order of 10_state.md R20. -/
inductive Reg16
  | ax | cx | dx | bx | sp | bp | si | di
  deriving DecidableEq, Repr

/-- The byte registers, in the order of 10_state.md R22. -/
inductive Reg8
  | al | cl | dl | bl | ah | ch | dh | bh
  deriving DecidableEq, Repr

/-- The segment registers, in the order of 10_state.md R25. -/
inductive SReg
  | es | cs | ss | ds | fs | gs
  deriving DecidableEq, Repr

/-- The address bases of 40_operand_resolver.md R133; `bp` is the base of rm = 6 in modes 1 and 2
only. -/
inductive Base
  | bxsi | bxdi | bpsi | bpdi | si | di | bp | bx
  deriving DecidableEq, Repr

/-- A memory operand: the four shapes modes 0, 1 and 2 give (30_encoding.md R103). -/
inductive MemOp
  /-- mode 0, rm = 6: the direct offset. -/
  | direct (off : Word)
  /-- mode 0, rm ≠ 6: the base alone. -/
  | indirect (base : Base)
  /-- mode 1: base and signed 8-bit displacement. -/
  | indirect8 (base : Base) (disp : Byte)
  /-- mode 2: base and 16-bit displacement. -/
  | indirect16 (base : Base) (disp : Word)
  deriving DecidableEq, Repr

/-- An `r/m` operand: a register of the operand's width (mode 3) or a memory operand. -/
inductive RM (ρ : Type)
  | reg (r : ρ)
  | mem (m : MemOp)
  deriving DecidableEq, Repr

abbrev RM8 := RM Reg8
abbrev RM16 := RM Reg16

/-- The instructions, in the order of spec/opcode_table.json. The segment field of `MOV Sreg` is
the 3-bit field itself: its values 6 and 7 name no register (30_encoding.md R100). -/
inductive Instr
  | movRm8R8 (dst : RM8) (src : Reg8)
  | movRm16R16 (dst : RM16) (src : Reg16)
  | movR8Rm8 (dst : Reg8) (src : RM8)
  | movR16Rm16 (dst : Reg16) (src : RM16)
  | movSregRm16 (dst : BitVec 3) (src : RM16)
  | movAlMoffs8 (off : Word)
  | movAxMoffs16 (off : Word)
  | movR8Imm8 (dst : Reg8) (imm : Byte)
  | movR16Imm16 (dst : Reg16) (imm : Word)
  | movRm8Imm8 (dst : RM8) (imm : Byte)
  | movRm16Imm16 (dst : RM16) (imm : Word)
  | subR8Rm8 (dst : Reg8) (src : RM8)
  | subR16Rm16 (dst : Reg16) (src : RM16)
  | cmpR8Rm8 (lhs : Reg8) (rhs : RM8)
  | cmpR16Rm16 (lhs : Reg16) (rhs : RM16)
  | subRm16Imm8 (dst : RM16) (imm : Byte)
  | cmpRm16Imm8 (lhs : RM16) (imm : Byte)
  | cmpRm8Imm8 (lhs : RM8) (imm : Byte)
  | andRm8Imm8 (dst : RM8) (imm : Byte)
  | andRm16Imm16 (dst : RM16) (imm : Word)
  | andRm16Imm8 (dst : RM16) (imm : Byte)
  | shrRm8 (dst : RM8)
  | shrRm16 (dst : RM16)
  | pushR16 (src : Reg16)
  | popR16 (dst : Reg16)
  | jz (rel : Byte)
  | jnz (rel : Byte)
  | jl (rel : Byte)
  | jmp (rel : Byte)
  | call (rel : Word)
  | ret
  | scasb
  | repneScasb
  | int (vector : Byte)
  deriving DecidableEq, Repr

end Sys2Proof
end

