-- ==== Sys2Proof/Machine/Bits.lean ====
section
/-! DEFINITION. Bit fields, byte order and sign extension: the helpers decoding, operands and
memory share (00_scope.md R9, R10; 20_memory.md R64; 30_encoding.md R98). -/

namespace Sys2Proof

/-- Bits 7:0 of a word: the byte stored at the lower index (20_memory.md R64). -/
def lowByte (w : Word) : Byte := w.extractLsb' 0 8

/-- Bits 15:8 of a word. -/
def highByte (w : Word) : Byte := w.extractLsb' 8 8

/-- `hi : lo` (00_scope.md R10). -/
def joinBytes (hi lo : Byte) : Word := hi ++ lo

/-- `sext_16` of a displacement or an immediate (30_encoding.md R103, R104). -/
def sext16 (b : Byte) : Word := b.signExtend 16

/-- modrm[7:6] (30_encoding.md R98). -/
def modField (modrm : Byte) : BitVec 2 := modrm.extractLsb' 6 2

/-- modrm[5:3] (30_encoding.md R98). -/
def regField (modrm : Byte) : BitVec 3 := modrm.extractLsb' 3 3

/-- modrm[2:0], and op[2:0] of an opcode that holds a register (30_encoding.md R98, R102). -/
def rmField (b : Byte) : BitVec 3 := b.extractLsb' 0 3

/-- The ModRM byte with the three fields given (30_encoding.md R98). -/
def packModrm (md : BitVec 2) (reg rm : BitVec 3) : Byte := md ++ reg ++ rm

/-- An opcode byte with a register number in bits 2:0 (30_encoding.md R102). -/
def packOpcode (top : BitVec 5) (r : BitVec 3) : Byte := top ++ r

/-- 10_state.md R20: the 16-bit register a 3-bit field names. -/
def Reg16.ofCode (c : BitVec 3) : Reg16 :=
  match c with
  | 0 => .ax
  | 1 => .cx
  | 2 => .dx
  | 3 => .bx
  | 4 => .sp
  | 5 => .bp
  | 6 => .si
  | _ => .di

def Reg16.code : Reg16 → BitVec 3
  | .ax => 0
  | .cx => 1
  | .dx => 2
  | .bx => 3
  | .sp => 4
  | .bp => 5
  | .si => 6
  | .di => 7

/-- 10_state.md R22: the byte register a 3-bit field names. -/
def Reg8.ofCode (c : BitVec 3) : Reg8 :=
  match c with
  | 0 => .al
  | 1 => .cl
  | 2 => .dl
  | 3 => .bl
  | 4 => .ah
  | 5 => .ch
  | 6 => .dh
  | _ => .bh

def Reg8.code : Reg8 → BitVec 3
  | .al => 0
  | .cl => 1
  | .dl => 2
  | .bl => 3
  | .ah => 4
  | .ch => 5
  | .dh => 6
  | .bh => 7

/-- 30_encoding.md R100: the segment register the field of `MOV Sreg` names; 6 and 7 name none. -/
def SReg.ofField (f : BitVec 3) : Option SReg :=
  match f with
  | 0 => some .es
  | 1 => some .cs
  | 2 => some .ss
  | 3 => some .ds
  | 4 => some .fs
  | 5 => some .gs
  | _ => none

def SReg.field : SReg → BitVec 3
  | .es => 0
  | .cs => 1
  | .ss => 2
  | .ds => 3
  | .fs => 4
  | .gs => 5

/-- 40_operand_resolver.md R133: the base an `rm` field names. -/
def Base.ofCode (c : BitVec 3) : Base :=
  match c with
  | 0 => .bxsi
  | 1 => .bxdi
  | 2 => .bpsi
  | 3 => .bpdi
  | 4 => .si
  | 5 => .di
  | 6 => .bp
  | _ => .bx

def Base.code : Base → BitVec 3
  | .bxsi => 0
  | .bxdi => 1
  | .bpsi => 2
  | .bpdi => 3
  | .si => 4
  | .di => 5
  | .bp => 6
  | .bx => 7

end Sys2Proof
end

