-- ==== Sys2Proof/Config.lean ====
section
/-! DEFINITION. What is fixed for a run and what is free: the parameters of 00_scope.md R8, the
fixed parameters of R7 that rules name, and the free values the host supplies (60_exceptions.md
R361, 47_interrupts.md R314). -/

namespace Sys2Proof.Config

/-- The two readings of the overflow check (41_flags.md R164). -/
inductive OfReading
  | wrap
  | intPromote
  deriving DecidableEq, Repr

/-- The parameters of 00_scope.md R8 that stay fixed for a run. `State.cfg` carries them, so a
theorem about every state is a theorem about every choice of parameters (log entry 1). -/
structure Params where
  /-- `MEM_SIZE`: number of bytes of the image buffer. -/
  memSize : Nat
  /-- `LOAD_OFFSET`, written `L`: where segment-relative addressing begins. -/
  loadOffset : Nat
  /-- `VIDEO_SURFACE_MODE`: the "graphics-text mode value" of INT 10h set mode. -/
  videoSurfaceMode : Byte
  /-- `OF_READING`. -/
  ofReading : OfReading
  /-- `DOS_READ_NOECHO_AH`: sub-code of "read character, no echo". -/
  dosReadNoEchoAh : Byte
  /-- `EXTRA_OPCODES`: opcodes a particular build has beyond the table. -/
  extraOpcodes : List Byte
  deriving DecidableEq, Repr

/-- The defaults of 00_scope.md R8 where it gives one; for the OPEN parameters the example values
of 95_test_vectors.md (its Conventions and P7). DESIGN CHOICE, log entry 1. -/
def Params.default : Params where
  memSize := 0x200
  loadOffset := 0x20
  videoSurfaceMode := 0x13
  ofReading := .wrap
  dosReadNoEchoAh := 0x08
  extraOpcodes := []

/-- What the loader hands the core at reset beside the parameters (70_reset_and_hazards.md R381). -/
structure Handoff where
  /-- The file bytes, header included, from index 0. -/
  image : List Byte
  resetPc : Nat
  resetCs : Word
  resetSs : Word
  resetSp : Word
  deriving DecidableEq, Repr

/-- The hand-off behind `State.reset`: no file bytes, `RESET_PC = L` and the other seeds 0, the
conventions of 95_test_vectors.md. DESIGN CHOICE, log entry 2. -/
def Handoff.default : Handoff where
  image := []
  resetPc := 0x20
  resetCs := 0
  resetSs := 0
  resetSp := 0

/-- A reading of the host clock, within the DOS ranges, which is all the model may assume
(47_interrupts.md R314). -/
structure HostTime where
  hour : Fin 24
  minute : Fin 60
  second : Fin 60
  hundredth : Fin 100
  deriving DecidableEq, Repr, Inhabited

/-- FREE VALUE (log entry 3): what the I/O collaborator does at the `n`-th free poll of a blocking
read: `some b` supplies the byte `b`, `none` lets the poll pass (60_exceptions.md R361). -/
opaque hostKey : Nat → Option Byte

/-- FREE VALUE (log entry 4): the `n`-th free reading of the host clock (47_interrupts.md R314). -/
opaque hostClock : Nat → HostTime

/-- The bound of the auxiliary call stack (00_scope.md R7, 10_state.md R35). -/
def callStackDepth : Nat := 256

/-- The string sentinel `$` (00_scope.md R7). -/
def sentinel : Byte := 0x24

end Sys2Proof.Config
end

