-- ==== Sys2Proof/Machine/State.lean ====
section
/-! DEFINITION. The Machine State (10_state.md) as plain data, the reasons a run ends, and reset. -/

namespace Sys2Proof.Machine

open Sys2Proof.Config

/-- The eight general registers (10_state.md R20). The byte registers are views of the first four
(R22, R23): `State.r8` and `State.setR8` in Ops.lean. -/
structure Regs where
  ax : Word
  cx : Word
  dx : Word
  bx : Word
  sp : Word
  bp : Word
  si : Word
  di : Word
  deriving DecidableEq, Repr

/-- The six segment registers (10_state.md R25). -/
structure Segs where
  es : Word
  cs : Word
  ss : Word
  ds : Word
  fs : Word
  gs : Word
  deriving DecidableEq, Repr

/-- The four computed flags (10_state.md R31, R32). PF, AF, IF and DF are hard-wired 0 (R33) and
have no storage; `State.flag` reads all eight. -/
structure Flags where
  cf : Bool
  zf : Bool
  sf : Bool
  of : Bool
  deriving DecidableEq, Repr

/-- The names of the eight flags (10_state.md R31). -/
inductive FlagName
  | cf | pf | af | zf | sf | ifl | df | of
  deriving DecidableEq, Repr

/-- The video cursor (10_state.md R38). -/
structure Cursor where
  row : Byte
  col : Byte
  page : Byte
  deriving DecidableEq, Repr

/-- The image: its bytes in canonical form, addresses rising, no entry equal to what an unlisted
address reads as (20_memory.md R60). -/
abbrev Mem := List Host.Cell

/-- What an unlisted byte of the image reads as: bytes past the file are 0 (10_state.md R42). -/
def Mem.blank : Byte := 0

/-- The canonical form. -/
abbrev Mem.wf (m : Mem) : Prop :=
  m.Pairwise (fun c d => c.1 < d.1) ∧ ∀ c ∈ m, c.2 ≠ Mem.blank

/-- The image that holds `bytes` from index `a` on. -/
def Mem.ofImage (a : Nat) : List Byte → Mem
  | [] => []
  | b :: bs => if b = Mem.blank then Mem.ofImage (a + 1) bs else (a, b) :: Mem.ofImage (a + 1) bs

/-- The operation tag of the flag function (41_flags.md R160, R166). -/
inductive FlagTag
  | subtraction
  | other (tag : Nat)
  deriving DecidableEq, Repr

/-- Why a run ended (10_state.md R40): kinds 1 to 9 of 60_exceptions.md R342, with the info the
vectors of 95_test_vectors.md show; `UNKNOWN_OPCODE` carries the opcode alone (R341; log entry 26). -/
inductive HaltReason
  | exit (code : Byte)
  | unknownOpcode (op : Byte)
  | unsupportedOperand (start : Nat) (op modrm : Byte)
  | fetchOutOfRange (start index : Nat)
  | memOutOfRange (start index width : Nat)
  | branchOutOfRange (start : Nat) (target : Int)
  | callStackOverflow (start ret : Nat)
  | callStackUnderflow (start : Nat)
  | unsupportedFlagOp (start : Nat) (tag : FlagTag)
  deriving DecidableEq, Repr

/-- An event of the diagnostic channel (60_exceptions.md R347). -/
inductive DiagEvent
  | unimplementedOpcode (start : Nat) (op : Byte) (modrm : Option Byte)
  | unsupportedOperand (start : Nat) (op modrm : Byte)
  | fetchOutOfRange (start index : Nat)
  | memOutOfRange (start index width : Nat)
  | branchOutOfRange (start : Nat) (target : Int)
  | callStackOverflow (start ret : Nat)
  | callStackUnderflow (start : Nat)
  | unsupportedFlagOp (start : Nat) (tag : FlagTag)
  | unsupportedInterrupt (vector ah : Byte)
  deriving DecidableEq, Repr

/-- A condition an instruction raises, before its `start` is filled in (60_exceptions.md R342,
kinds 2 to 9). -/
inductive Cond
  | unknownOpcode (op : Byte) (modrm : Option Byte)
  | unsupportedOperand (op modrm : Byte)
  | fetchOutOfRange (index : Nat)
  | memOutOfRange (index width : Nat)
  | branchOutOfRange (target : Int)
  | callStackOverflow (ret : Nat)
  | callStackUnderflow
  | unsupportedFlagOp (tag : FlagTag)
  deriving DecidableEq, Repr

/-- The run state (10_state.md R40). -/
inductive RunState
  | running
  | halted (r : HaltReason)
  deriving DecidableEq, Repr

/-- A call of the I/O collaborator as an event of the run (60_exceptions.md R360). A read is
recorded when it is answered, with the byte returned. -/
inductive IoEvent
  | readCharacter (blocking : Bool) (answer : Byte)
  | writeCharacter (b : Byte)
  | writeBatch (text : List Byte) (column row : Byte)
  | activateVideoSurface
  | setBackgroundColor (color : Byte)
  deriving DecidableEq, Repr

/-- The machine. `cfg` is constant in a run (log entry 1); `keys`, `clocks` and `draws` are the
model's own fields for what the host supplies (log entries 3 and 4); every other field is the
spec's. -/
structure State where
  regs : Regs
  segs : Segs
  /-- An index into the image, of no fixed width (10_state.md R27). -/
  pc : Nat
  flags : Flags
  /-- The auxiliary call stack, top last (10_state.md R35). -/
  callStack : List Nat
  mem : Mem
  videoMode : Bool
  cursor : Cursor
  runState : RunState
  blocked : Bool
  curOpcode : Byte
  instrCount : Nat
  diag : List DiagEvent
  io : List IoEvent
  cfg : Params
  /-- What the collaborator does at the next polls of a blocking read: a byte, or nothing yet. -/
  keys : List (Option Byte)
  /-- The next readings of the host clock. -/
  clocks : List HostTime
  /-- How many free values have been drawn. -/
  draws : Nat
  deriving DecidableEq, Repr

/-- How a step can stop. -/
inductive Fault
  /-- Raised by `step` alone, from a halted state: "`Halted` is final: the core takes no further
  step" (60_exceptions.md R346). Safe: the core does nothing there. -/
  | halted (r : HaltReason)
  deriving DecidableEq, Repr

/-- What a step refuses. -/
inductive Refusal
  /-- Raised by `exec` for an instruction without a meaning; no arm answers it. Safe. -/
  | notModelled (mnemonic : String)
  /-- Raised by `step` for an opcode outside the table that `EXTRA_OPCODES` lists: the spec gives
  it no effect (92_eei_decisions.md D2). Safe; the list is empty by default. Log entry 9. -/
  | extraOpcode (op : Byte)
  deriving DecidableEq, Repr

/-- The outcome of an instruction or a step. -/
abbrev Result := Host.Outcome State Fault Refusal

/-- Reset (10_state.md R42, 70_reset_and_hazards.md R380 to R382) with the parameters `p` and the
loader's hand-off `h`. File bytes past `MEM_SIZE` do not exist (log entry 16). -/
def State.boot (p : Params) (h : Handoff) : State where
  regs := { ax := 0, cx := 0, dx := 0, bx := 0, sp := h.resetSp, bp := 0, si := 0, di := 0 }
  segs := { es := 0, cs := h.resetCs, ss := h.resetSs, ds := 0, fs := 0, gs := 0 }
  pc := h.resetPc
  flags := { cf := false, zf := false, sf := false, of := false }
  callStack := []
  mem := Mem.ofImage 0 (h.image.take p.memSize)
  videoMode := false
  cursor := { row := 0, col := 0, page := 0 }
  runState := .running
  blocked := false
  curOpcode := 0
  instrCount := 0
  diag := []
  io := []
  cfg := p
  keys := []
  clocks := []
  draws := 0

/-- The machine right after reset, no file loaded (log entries 1 and 2). -/
def State.reset : State := State.boot Params.default Handoff.default

end Sys2Proof.Machine
end

