-- ==== Sys2Proof/Machine/Ops.lean ====
section
/-! DEFINITION. The named operations over registers, memory, the machine stack, the call stack, the
host and the run state. What an instruction does it does through these. -/

namespace Sys2Proof.Machine

open Sys2Proof.Config

/-! ### General and segment registers (10_state.md R20 to R25) -/

def Regs.get (g : Regs) : Reg16 → Word
  | .ax => g.ax
  | .cx => g.cx
  | .dx => g.dx
  | .bx => g.bx
  | .sp => g.sp
  | .bp => g.bp
  | .si => g.si
  | .di => g.di

def Regs.set (g : Regs) (r : Reg16) (v : Word) : Regs :=
  match r with
  | .ax => { g with ax := v }
  | .cx => { g with cx := v }
  | .dx => { g with dx := v }
  | .bx => { g with bx := v }
  | .sp => { g with sp := v }
  | .bp => { g with bp := v }
  | .si => { g with si := v }
  | .di => { g with di := v }

def Segs.get (g : Segs) : SReg → Word
  | .es => g.es
  | .cs => g.cs
  | .ss => g.ss
  | .ds => g.ds
  | .fs => g.fs
  | .gs => g.gs

def Segs.set (g : Segs) (r : SReg) (v : Word) : Segs :=
  match r with
  | .es => { g with es := v }
  | .cs => { g with cs := v }
  | .ss => { g with ss := v }
  | .ds => { g with ds := v }
  | .fs => { g with fs := v }
  | .gs => { g with gs := v }

/-- The word register a byte register is a half of (10_state.md R22). -/
def parent : Reg8 → Reg16
  | .al => .ax
  | .cl => .cx
  | .dl => .dx
  | .bl => .bx
  | .ah => .ax
  | .ch => .cx
  | .dh => .dx
  | .bh => .bx

/-- Whether a byte register is bits 15:8 of its word register (10_state.md R22). -/
def isHigh : Reg8 → Bool
  | .al => false
  | .cl => false
  | .dl => false
  | .bl => false
  | .ah => true
  | .ch => true
  | .dh => true
  | .bh => true

/-- `x[i]`. -/
def State.r16 (s : State) (r : Reg16) : Word := s.regs.get r

/-- `x[i] <- v`. -/
def State.setR16 (s : State) (r : Reg16) (v : Word) : State := { s with regs := s.regs.set r v }

/-- `x8[i]` (10_state.md R22). -/
def State.r8 (s : State) (h : Reg8) : Byte :=
  if isHigh h then highByte (s.r16 (parent h)) else lowByte (s.r16 (parent h))

/-- `x8[i] <- v`: the other half is kept (10_state.md R23). -/
def State.setR8 (s : State) (h : Reg8) (v : Byte) : State :=
  s.setR16 (parent h)
    (if isHigh h then joinBytes v (lowByte (s.r16 (parent h)))
     else joinBytes (highByte (s.r16 (parent h))) v)

/-- `seg[i]`. -/
def State.seg (s : State) (r : SReg) : Word := s.segs.get r

def State.setSeg (s : State) (r : SReg) (v : Word) : State := { s with segs := s.segs.set r v }

/-! ### Flags (10_state.md R31 to R33) -/

/-- Reads any of the eight flags; PF, AF, IF and DF are hard-wired 0 (R33; log entry 11). -/
def State.flag (s : State) : FlagName → Bool
  | .cf => s.flags.cf
  | .pf => false
  | .af => false
  | .zf => s.flags.zf
  | .sf => s.flags.sf
  | .ifl => false
  | .df => false
  | .of => s.flags.of

/-- Overwrites the four computed flags at once (41_flags.md R165). -/
def State.setFlags (s : State) (f : Flags) : State := { s with flags := f }

/-- Writes ZF alone, as SCASB does (10_state.md R32). -/
def State.setZf (s : State) (z : Bool) : State := { s with flags := { s.flags with zf := z } }

/-! ### The instruction pointer (10_state.md R27 to R30) -/

def State.setPc (s : State) (n : Nat) : State := { s with pc := n }

/-- Consumes `n` more bytes of the instruction (10_state.md R28). -/
def State.skip (s : State) (n : Nat) : State := { s with pc := s.pc + n }

/-! ### Taking a condition (60_exceptions.md R341 to R346) -/

/-- The halt reason a condition gives, for the instruction at `start`. -/
def Cond.reason (start : Nat) : Cond → HaltReason
  | .unknownOpcode op _ => .unknownOpcode op
  | .unsupportedOperand op modrm => .unsupportedOperand start op modrm
  | .fetchOutOfRange index => .fetchOutOfRange start index
  | .memOutOfRange index width => .memOutOfRange start index width
  | .branchOutOfRange target => .branchOutOfRange start target
  | .callStackOverflow ret => .callStackOverflow start ret
  | .callStackUnderflow => .callStackUnderflow start
  | .unsupportedFlagOp tag => .unsupportedFlagOp start tag

/-- The diagnostic event a condition appends, for the instruction at `start`. -/
def Cond.event (start : Nat) : Cond → DiagEvent
  | .unknownOpcode op modrm => .unimplementedOpcode start op modrm
  | .unsupportedOperand op modrm => .unsupportedOperand start op modrm
  | .fetchOutOfRange index => .fetchOutOfRange start index
  | .memOutOfRange index width => .memOutOfRange start index width
  | .branchOutOfRange target => .branchOutOfRange start target
  | .callStackOverflow ret => .callStackOverflow start ret
  | .callStackUnderflow => .callStackUnderflow start
  | .unsupportedFlagOp tag => .unsupportedFlagOp start tag

/-- The code numbers of 60_exceptions.md R342 (labels only). -/
def HaltReason.code : HaltReason → Nat
  | .exit _ => 1
  | .unknownOpcode _ => 2
  | .unsupportedOperand _ _ _ => 3
  | .fetchOutOfRange _ _ => 4
  | .memOutOfRange _ _ _ => 5
  | .branchOutOfRange _ _ => 6
  | .callStackOverflow _ _ => 7
  | .callStackUnderflow _ => 8
  | .unsupportedFlagOp _ _ => 9

def DiagEvent.code : DiagEvent → Nat
  | .unimplementedOpcode _ _ _ => 2
  | .unsupportedOperand _ _ _ => 3
  | .fetchOutOfRange _ _ => 4
  | .memOutOfRange _ _ _ => 5
  | .branchOutOfRange _ _ => 6
  | .callStackOverflow _ _ => 7
  | .callStackUnderflow _ => 8
  | .unsupportedFlagOp _ _ => 9
  | .unsupportedInterrupt _ _ => 10

/-- Appends a diagnostic event (R347). -/
def State.note (s : State) (d : DiagEvent) : State := { s with diag := s.diag ++ [d] }

def State.halt (s : State) (r : HaltReason) : State := { s with runState := .halted r }

/-- Raises `c` for the instruction at `start`: the run halts and the diagnostic is appended
(R342); nothing else changes. -/
def State.raiseAt (s : State) (start : Nat) (c : Cond) : State :=
  (s.note (c.event start)).halt (c.reason start)

/-- TAKING AN EXCEPTION, the one operation every handler uses: `s` is the state the handler was
invoked in, its pc just after the opcode byte, so the state of R344 is `s` itself, halted.
There is no return from it (R349, R350). -/
def State.raise (s : State) (c : Cond) : State := s.raiseAt (s.pc - 1) c

/-- Ends a handler invoked in `s`: its next state, or the condition it raised (R344, R345). -/
def State.settle (s : State) : Except Cond State → Result
  | .ok t => .next t
  | .error c => .next (s.raise c)

/-! ### Memory (20_memory.md R60 to R66) -/

/-- The byte at an index of the image. -/
def Mem.read : Mem → Nat → Byte
  | [], _ => Mem.blank
  | c :: m, a => if c.1 = a then c.2 else Mem.read m a

/-- Stores a byte, keeping the canonical form. -/
def Mem.write : Mem → Nat → Byte → Mem
  | [], a, b => if b = Mem.blank then [] else [(a, b)]
  | c :: m, a, b =>
    if a < c.1 then (if b = Mem.blank then c :: m else (a, b) :: c :: m)
    else if a = c.1 then (if b = Mem.blank then m else (a, b) :: m)
    else c :: Mem.write m a b

/-- Stores a word, low byte at the lower index (R63, R64). -/
def Mem.write16 (m : Mem) (a : Nat) (v : Word) : Mem :=
  (m.write a (lowByte v)).write (a + 1) (highByte v)

def State.setMem (s : State) (m : Mem) : State := { s with mem := m }

/-- `Lin(s, off)`, exact integer arithmetic (R66). -/
def State.lin (s : State) (g : SReg) (off : Nat) : Nat :=
  s.cfg.loadOffset + 16 * (s.seg g).toNat + off

/-- The `n` bytes at `a` are in the image. -/
abbrev State.inImage (s : State) (a n : Nat) : Prop := a + n ≤ s.cfg.memSize

/-- `MemRead(a, 1)` (R62). -/
def State.read8 (s : State) (a : Nat) : Except Cond Byte :=
  if s.inImage a 1 then .ok (s.mem.read a) else .error (.memOutOfRange a 1)

/-- `MemRead(a, 2)` (R62). -/
def State.read16 (s : State) (a : Nat) : Except Cond Word :=
  if s.inImage a 2 then .ok (joinBytes (s.mem.read (a + 1)) (s.mem.read a))
  else .error (.memOutOfRange a 2)

/-- `MemWrite(a, 1, v)` (R63). -/
def State.write8 (s : State) (a : Nat) (v : Byte) : Except Cond State :=
  if s.inImage a 1 then .ok (s.setMem (s.mem.write a v)) else .error (.memOutOfRange a 1)

/-- `MemWrite(a, 2, v)`: both bytes or none (R63). -/
def State.write16 (s : State) (a : Nat) (v : Word) : Except Cond State :=
  if s.inImage a 2 then .ok (s.setMem (s.mem.write16 a v)) else .error (.memOutOfRange a 2)

/-! ### The machine stack (44_stack.md R243 to R246) -/

def State.push16 (s : State) (v : Word) : Except Cond State :=
  (s.setR16 .sp (s.r16 .sp - 2)).write16 (s.lin .ss (s.r16 .sp - 2).toNat) v

def State.pop16 (s : State) : Except Cond (Word × State) :=
  (s.read16 (s.lin .ss (s.r16 .sp).toNat)).map fun v => (v, s.setR16 .sp (s.r16 .sp + 2))

/-- No instruction of the table uses it (R245). -/
def State.push8 (s : State) (v : Byte) : Except Cond State :=
  (s.setR16 .sp (s.r16 .sp - 1)).write8 (s.lin .ss (s.r16 .sp - 1).toNat) v

/-- No instruction of the table uses it (R246). -/
def State.pop8 (s : State) : Except Cond (Byte × State) :=
  (s.read8 (s.lin .ss (s.r16 .sp).toNat)).map fun v => (v, s.setR16 .sp (s.r16 .sp + 1))

/-! ### The auxiliary call stack (10_state.md R35, 45_control_transfer.md R264, R265) -/

def State.pushCall (s : State) (ret : Nat) : State := { s with callStack := s.callStack ++ [ret] }

def State.popCall (s : State) : State := { s with callStack := s.callStack.dropLast }

/-! ### Branch targets (45_control_transfer.md R266) -/

def target (next : Nat) (d : Int) : Except Cond Nat :=
  if (next : Int) + d < 0 then .error (.branchOutOfRange (next + d)) else .ok ((next : Int) + d).toNat

/-! ### Fetch (30_encoding.md R92, R93) -/

def State.fetch8 (s : State) : Except Cond (Byte × State) :=
  if s.pc < s.cfg.memSize then .ok (s.mem.read s.pc, s.skip 1) else .error (.fetchOutOfRange s.pc)

def State.fetch16 (s : State) : Except Cond (Word × State) :=
  s.fetch8.bind fun (lo, s1) => s1.fetch8.map fun (hi, s2) => (joinBytes hi lo, s2)

/-- `Peek8`: the next byte, pc unchanged (R92). -/
def State.peek8 (s : State) : Except Cond Byte := s.fetch8.map fun (b, _) => b

/-- The loop's part of an instruction once its opcode byte is fetched: CurOpcode and InstrCount
(R92, 60_exceptions.md R363). -/
def State.countOpcode (s : State) (op : Byte) : State :=
  { s with curOpcode := op, instrCount := s.instrCount + 1 }

/-- `n` bytes of the image from `a` on. -/
def Mem.bytesFrom (m : Mem) (a : Nat) : Nat → List Byte
  | 0 => []
  | n + 1 => m.read a :: m.bytesFrom (a + 1) n

/-- Up to `n` bytes from pc on, as many as the image holds. -/
def State.window (s : State) (n : Nat) : List Byte :=
  s.mem.bytesFrom s.pc (min n (s.cfg.memSize - s.pc))

/-! ### The host (60_exceptions.md R360, R361; 47_interrupts.md R314) -/

/-- Records calls of the I/O collaborator. -/
def State.emit (s : State) (es : List IoEvent) : State := { s with io := s.io ++ es }

/-- What the collaborator does at this poll: the next entry of `keys`, or, when that is used up, a
free value (log entry 3). -/
def State.nextKey (s : State) : Option Byte :=
  match s.keys with
  | k :: _ => k
  | [] => Config.hostKey s.draws

def State.dropKey (s : State) : State :=
  match s.keys with
  | _ :: ks => { s with keys := ks }
  | [] => { s with draws := s.draws + 1 }

/-- `AL <- Io.read_character(blocking = true)`: one poll. With an answer the read completes; without
one the core waits, Blocked (60_exceptions.md R361; log entry 3). -/
def State.pollKey (s : State) : State :=
  match s.nextKey with
  | some b => { (s.dropKey.setR8 .al b).emit [.readCharacter true b] with blocked := false }
  | none => { s.dropKey with blocked := true }

/-- `HostClock()`: the next entry of `clocks`, or a free value (log entry 4). -/
def State.nextClock (s : State) : HostTime :=
  match s.clocks with
  | t :: _ => t
  | [] => Config.hostClock s.draws

def State.dropClock (s : State) : State :=
  match s.clocks with
  | _ :: ts => { s with clocks := ts }
  | [] => { s with draws := s.draws + 1 }

/-! ### String scans (46_string.md R290, 47_interrupts.md R311) -/

/-- Scans up to `fuel` bytes from `a`: the index of the first byte equal to `x` or to `$`, and
whether it is `x` (tested first). -/
def Mem.scan (m : Mem) (x : Byte) : Nat → Nat → Option (Nat × Bool)
  | 0, _ => none
  | fuel + 1, a =>
    if m.read a = x then some (a, true)
    else if m.read a = Config.sentinel then some (a, false)
    else m.scan x fuel (a + 1)

/-- Reads up to `fuel` bytes from `a`: the bytes before the first `$`, and whether one was found. -/
def Mem.collect (m : Mem) : Nat → Nat → List Byte × Bool
  | 0, _ => ([], false)
  | fuel + 1, a =>
    if m.read a = Config.sentinel then ([], true)
    else (m.read a :: (m.collect fuel (a + 1)).1, (m.collect fuel (a + 1)).2)

/-- The bytes of the image from `a` on. -/
def State.room (s : State) (a : Nat) : Nat := s.cfg.memSize - a

/-- A byte read at the first index at or after `a` outside the image fails (20_memory.md R62). -/
def State.pastImage (s : State) (a : Nat) : Cond := .memOutOfRange (max a s.cfg.memSize) 1

end Sys2Proof.Machine
end

