-- ==== Sys2Proof/Machine/Flags.lean ====
section
/-! DEFINITION. The flag function and the branch conditions (41_flags.md). The rules are the
source's own and differ from the 8086 (90_conflicts.md C4). -/

namespace Sys2Proof.Machine

open Sys2Proof.Config

/-- `SubFlags(a, b, w)` (R160 to R164): CF is the borrow out of bit 3, OF by `OF_READING`. -/
def subFlags {w : Nat} (reading : OfReading) (a b : BitVec w) : Flags where
  cf := decide (a.toNat % 16 < b.toNat % 16)
  zf := decide (a = b)
  sf := (a - b).msb
  of :=
    match reading with
    | .wrap => decide (a < a - b)
    | .intPromote => false

/-- The flag function with its operation tag: only subtraction is defined (R160, R166). -/
def flagFunction {w : Nat} (tag : FlagTag) (reading : OfReading) (a b : BitVec w) :
    Except Cond Flags :=
  match tag with
  | .subtraction => .ok (subFlags reading a b)
  | .other n => .error (.unsupportedFlagOp (.other n))

/-- Computes and writes the four flags of a subtraction (R165). -/
def State.subFlags {w : Nat} (s : State) (a b : BitVec w) : Except Cond State :=
  (flagFunction .subtraction s.cfg.ofReading a b).map s.setFlags

/-- "jump if zero flag set" (R167). -/
def State.condZ (s : State) : Bool := s.flag .zf

/-- "jump if zero flag clear" (R167). -/
def State.condNz (s : State) : Bool := !s.flag .zf

/-- "jump if sign≠overflow" (R167). -/
def State.condL (s : State) : Bool := s.flag .sf != s.flag .of

end Sys2Proof.Machine
end

