-- ==== Sys2Proof/WellFormed.lean ====
section
/-! DEFINITION. Which terms of `Instr` stand for an encoding that runs: three checks, each with a
term it refuses in Tests/Slice0.lean. -/

namespace Sys2Proof

/-- BP alone is no mode-0 base: rm = 6 there is the direct offset (40_operand_resolver.md R133). -/
def MemOp.wf : MemOp → Bool
  | .direct _ => true
  | .indirect b => b != .bp
  | .indirect8 _ _ => true
  | .indirect16 _ _ => true

def RM.wf {ρ : Type} : RM ρ → Bool
  | .reg _ => true
  | .mem m => m.wf

/-- The operand of `C6` and `C7` is in memory (40_operand_resolver.md R138). -/
def RM.isMem {ρ : Type} : RM ρ → Bool
  | .reg _ => false
  | .mem _ => true

/-- The segment field names one of the six segment registers (30_encoding.md R100). -/
def sregFieldOk (f : BitVec 3) : Bool := f.toNat ≤ 5

def Instr.wf : Instr → Bool
  | .movRm8R8 dst _ => dst.wf
  | .movRm16R16 dst _ => dst.wf
  | .movR8Rm8 _ src => src.wf
  | .movR16Rm16 _ src => src.wf
  | .movSregRm16 dst src => sregFieldOk dst && src.wf
  | .movAlMoffs8 _ => true
  | .movAxMoffs16 _ => true
  | .movR8Imm8 _ _ => true
  | .movR16Imm16 _ _ => true
  | .movRm8Imm8 dst _ => dst.isMem && dst.wf
  | .movRm16Imm16 dst _ => dst.isMem && dst.wf
  | .subR8Rm8 _ src => src.wf
  | .subR16Rm16 _ src => src.wf
  | .cmpR8Rm8 _ rhs => rhs.wf
  | .cmpR16Rm16 _ rhs => rhs.wf
  | .subRm16Imm8 dst _ => dst.wf
  | .cmpRm16Imm8 lhs _ => lhs.wf
  | .cmpRm8Imm8 lhs _ => lhs.wf
  | .andRm8Imm8 dst _ => dst.wf
  | .andRm16Imm16 dst _ => dst.wf
  | .andRm16Imm8 dst _ => dst.wf
  | .shrRm8 dst => dst.wf
  | .shrRm16 dst => dst.wf
  | .pushR16 _ => true
  | .popR16 _ => true
  | .jz _ => true
  | .jnz _ => true
  | .jl _ => true
  | .jmp _ => true
  | .call _ => true
  | .ret => true
  | .scasb => true
  | .repneScasb => true
  | .int _ => true

end Sys2Proof
end

