-- ==== Sys2Proof/Decode.lean ====
section
/-! DEFINITION. From bytes to an instruction and back (30_encoding.md). `decode` is total on any
bytes; what it rejects it rejects by name. `encode` is written from the same tables. -/

namespace Sys2Proof

/-! ### Results -/

/-- Why bytes are no instruction that runs. -/
inductive DecodeError
  /-- The bytes end before the instruction does: the next fetch fails (30_encoding.md R93). -/
  | truncated
  /-- No dispatch-table entry, no such group member, or F2 not before AE (R91, R101, R109). -/
  | unknownOpcode (op : Byte) (modrm : Option Byte)
  /-- An operand combination without a defined case (40_operand_resolver.md R138). -/
  | unsupportedOperand (op modrm : Byte)
  deriving DecidableEq, Repr

/-- A decoded value with the bytes after it, or the reason there is none. -/
inductive Decoded (α : Type)
  | ok (v : α) (rest : List Byte)
  | bad (e : DecodeError)
  deriving DecidableEq, Repr

def Decoded.bind {α β : Type} (d : Decoded α) (f : α → List Byte → Decoded β) : Decoded β :=
  match d with
  | .ok v rest => f v rest
  | .bad e => .bad e

/-! ### Fields after the opcode -/

def take8 : List Byte → Decoded Byte
  | b :: rest => .ok b rest
  | [] => .bad .truncated

/-- Two bytes, low byte first (30_encoding.md R93). -/
def take16 : List Byte → Decoded Word
  | lo :: hi :: rest => .ok (joinBytes hi lo) rest
  | [_] => .bad .truncated
  | [] => .bad .truncated

/-- The memory operand of modes 0, 1 and 2 (30_encoding.md R103). -/
def takeMem (md : BitVec 2) (rm : BitVec 3) (bs : List Byte) : Decoded MemOp :=
  if md = 0 then
    if rm = 6 then (take16 bs).bind fun d r => .ok (.direct d) r
    else .ok (.indirect (Base.ofCode rm)) bs
  else if md = 1 then (take8 bs).bind fun d r => .ok (.indirect8 (Base.ofCode rm) d) r
  else (take16 bs).bind fun d r => .ok (.indirect16 (Base.ofCode rm) d) r

/-- The `r/m` operand of a ModRM byte whose displacement starts at `bs`; `name` reads the register
number at the operand's width (30_encoding.md R99, R103). -/
def takeRM {ρ : Type} (name : BitVec 3 → ρ) (modrm : Byte) (bs : List Byte) : Decoded (RM ρ) :=
  if modField modrm = 3 then .ok (.reg (name (rmField modrm))) bs
  else (takeMem (modField modrm) (rmField modrm) bs).bind fun m r => .ok (.mem m) r

/-- Formats `MODRM /r`: ModRM, then displacement; `mk` gets the reg field and the operand. -/
def formReg {ρ : Type} (name : BitVec 3 → ρ) (mk : BitVec 3 → RM ρ → Instr) (bs : List Byte) :
    Decoded Instr :=
  (take8 bs).bind fun modrm r =>
    (takeRM name modrm r).bind fun rm r' => .ok (mk (regField modrm) rm) r'

/-- Group member without immediate (`MODRM`). -/
def formRM {ρ : Type} (name : BitVec 3 → ρ) (mk : RM ρ → Instr) (bs : List Byte) : Decoded Instr :=
  formReg name (fun _ rm => mk rm) bs

/-- Group member with an 8-bit immediate after the displacement (`MODRM_I8`, R104). -/
def formRMImm8 {ρ : Type} (name : BitVec 3 → ρ) (mk : RM ρ → Byte → Instr) (bs : List Byte) :
    Decoded Instr :=
  (take8 bs).bind fun modrm r =>
    (takeRM name modrm r).bind fun rm r' => (take8 r').bind fun v r'' => .ok (mk rm v) r''

/-- Group member with a 16-bit immediate after the displacement (`MODRM_I16`, R104). -/
def formRMImm16 {ρ : Type} (name : BitVec 3 → ρ) (mk : RM ρ → Word → Instr) (bs : List Byte) :
    Decoded Instr :=
  (take8 bs).bind fun modrm r =>
    (takeRM name modrm r).bind fun rm r' => (take16 r').bind fun v r'' => .ok (mk rm v) r''

def formImm8 (mk : Byte → Instr) (bs : List Byte) : Decoded Instr :=
  (take8 bs).bind fun v r => .ok (mk v) r

def formImm16 (mk : Word → Instr) (bs : List Byte) : Decoded Instr :=
  (take16 bs).bind fun v r => .ok (mk v) r

/-! ### The dispatch table -/

/-- The entries of the dispatch table (30_encoding.md R91, R97, R108): an opcode, a range of eight
opcodes with a register in bits 2:0, a group opcode (R101), or the prefix F2 (R109). -/
inductive Handler
  | movRm8R8 | movRm16R16 | movR8Rm8 | movR16Rm16 | movSreg
  | movAlMoffs | movAxMoffs | movR8Imm | movR16Imm
  | subR8 | subR16 | cmpR8 | cmpR16
  | pushR | popR | jz | jnz | jl | jmp | call | ret | scasb | int
  | group80 | group81 | group83 | groupC6 | groupC7 | groupD0 | groupD1
  | prefixF2
  deriving DecidableEq, Repr

/-- R97, R108: the handler of an opcode byte; `none` is the "single default path for the
unimplemented case" (R91). -/
def dispatchTable (op : Byte) : Option Handler :=
  match op with
  | 0x2A => some .subR8
  | 0x2B => some .subR16
  | 0x3A => some .cmpR8
  | 0x3B => some .cmpR16
  | 0x74 => some .jz
  | 0x75 => some .jnz
  | 0x7C => some .jl
  | 0x80 => some .group80
  | 0x81 => some .group81
  | 0x83 => some .group83
  | 0x88 => some .movRm8R8
  | 0x89 => some .movRm16R16
  | 0x8A => some .movR8Rm8
  | 0x8B => some .movR16Rm16
  | 0x8E => some .movSreg
  | 0xA0 => some .movAlMoffs
  | 0xA1 => some .movAxMoffs
  | 0xAE => some .scasb
  | 0xC3 => some .ret
  | 0xC6 => some .groupC6
  | 0xC7 => some .groupC7
  | 0xCD => some .int
  | 0xD0 => some .groupD0
  | 0xD1 => some .groupD1
  | 0xE8 => some .call
  | 0xEB => some .jmp
  | 0xF2 => some .prefixF2
  | _ =>
    if op.extractLsb' 3 5 = 0b01010#5 then some .pushR
    else if op.extractLsb' 3 5 = 0b01011#5 then some .popR
    else if op.extractLsb' 3 5 = 0b10110#5 then some .movR8Imm
    else if op.extractLsb' 3 5 = 0b10111#5 then some .movR16Imm
    else none

/-- A group opcode: the reg field of the peeked ModRM picks the member (R92, R101). -/
def decodeGroup (op : Byte) (member : BitVec 3 → Option (List Byte → Decoded Instr))
    (bs : List Byte) : Decoded Instr :=
  match bs with
  | [] => .bad .truncated
  | modrm :: _ =>
    match member (regField modrm) with
    | some form => form bs
    | none => .bad (.unknownOpcode op (some modrm))

/-- The members of each group opcode (R101). -/
def member80 (n : BitVec 3) : Option (List Byte → Decoded Instr) :=
  if n = 4 then some (formRMImm8 Reg8.ofCode .andRm8Imm8)
  else if n = 7 then some (formRMImm8 Reg8.ofCode .cmpRm8Imm8)
  else none

def member81 (n : BitVec 3) : Option (List Byte → Decoded Instr) :=
  if n = 4 then some (formRMImm16 Reg16.ofCode .andRm16Imm16) else none

def member83 (n : BitVec 3) : Option (List Byte → Decoded Instr) :=
  if n = 4 then some (formRMImm8 Reg16.ofCode .andRm16Imm8)
  else if n = 5 then some (formRMImm8 Reg16.ofCode .subRm16Imm8)
  else if n = 7 then some (formRMImm8 Reg16.ofCode .cmpRm16Imm8)
  else none

/-- C6 and C7 with mode 3 are rejected before a byte after the ModRM is fetched (R190, R191). -/
def memOnly (op : Byte) (form : List Byte → Decoded Instr) (bs : List Byte) : Decoded Instr :=
  match bs with
  | [] => .bad .truncated
  | modrm :: _ => if modField modrm = 3 then .bad (.unsupportedOperand op modrm) else form bs

def memberC6 (n : BitVec 3) : Option (List Byte → Decoded Instr) :=
  if n = 0 then some (memOnly 0xC6 (formRMImm8 Reg8.ofCode .movRm8Imm8)) else none

def memberC7 (n : BitVec 3) : Option (List Byte → Decoded Instr) :=
  if n = 0 then some (memOnly 0xC7 (formRMImm16 Reg16.ofCode .movRm16Imm16)) else none

def memberD0 (n : BitVec 3) : Option (List Byte → Decoded Instr) :=
  if n = 5 then some (formRM Reg8.ofCode .shrRm8) else none

def memberD1 (n : BitVec 3) : Option (List Byte → Decoded Instr) :=
  if n = 5 then some (formRM Reg16.ofCode .shrRm16) else none

/-- 8E: a segment field of 6 or 7 is rejected before the displacement is fetched
(42_data_movement.md R185). -/
def formSreg (bs : List Byte) : Decoded Instr :=
  match bs with
  | [] => .bad .truncated
  | modrm :: _ =>
    if sregFieldOk (regField modrm) then formReg Reg16.ofCode .movSregRm16 bs
    else .bad (.unsupportedOperand 0x8E modrm)

/-- F2: only before AE, which is peeked first (30_encoding.md R109). -/
def formF2 (bs : List Byte) : Decoded Instr :=
  match bs with
  | [] => .bad .truncated
  | next :: rest => if next = 0xAE then .ok .repneScasb rest else .bad (.unknownOpcode 0xF2 none)

/-- The rest of an instruction after its opcode byte `op`. -/
def Handler.decode (h : Handler) (op : Byte) : List Byte → Decoded Instr :=
  match h with
  | .movRm8R8 => formReg Reg8.ofCode fun g rm => .movRm8R8 rm (Reg8.ofCode g)
  | .movRm16R16 => formReg Reg16.ofCode fun g rm => .movRm16R16 rm (Reg16.ofCode g)
  | .movR8Rm8 => formReg Reg8.ofCode fun g rm => .movR8Rm8 (Reg8.ofCode g) rm
  | .movR16Rm16 => formReg Reg16.ofCode fun g rm => .movR16Rm16 (Reg16.ofCode g) rm
  | .movSreg => formSreg
  | .movAlMoffs => formImm16 .movAlMoffs8
  | .movAxMoffs => formImm16 .movAxMoffs16
  | .movR8Imm => formImm8 (.movR8Imm8 (Reg8.ofCode (rmField op)))
  | .movR16Imm => formImm16 (.movR16Imm16 (Reg16.ofCode (rmField op)))
  | .subR8 => formReg Reg8.ofCode fun g rm => .subR8Rm8 (Reg8.ofCode g) rm
  | .subR16 => formReg Reg16.ofCode fun g rm => .subR16Rm16 (Reg16.ofCode g) rm
  | .cmpR8 => formReg Reg8.ofCode fun g rm => .cmpR8Rm8 (Reg8.ofCode g) rm
  | .cmpR16 => formReg Reg16.ofCode fun g rm => .cmpR16Rm16 (Reg16.ofCode g) rm
  | .pushR => fun bs => .ok (.pushR16 (Reg16.ofCode (rmField op))) bs
  | .popR => fun bs => .ok (.popR16 (Reg16.ofCode (rmField op))) bs
  | .jz => formImm8 .jz
  | .jnz => formImm8 .jnz
  | .jl => formImm8 .jl
  | .jmp => formImm8 .jmp
  | .call => formImm16 .call
  | .ret => fun bs => .ok .ret bs
  | .scasb => fun bs => .ok .scasb bs
  | .int => formImm8 .int
  | .group80 => decodeGroup op member80
  | .group81 => decodeGroup op member81
  | .group83 => decodeGroup op member83
  | .groupC6 => decodeGroup op memberC6
  | .groupC7 => decodeGroup op memberC7
  | .groupD0 => decodeGroup op memberD0
  | .groupD1 => decodeGroup op memberD1
  | .prefixF2 => formF2

/-- One instruction from the bytes at `pc` on, with the bytes after it (30_encoding.md R92 to R109,
the bytes taken in the order the rules fetch them). -/
def decode (bs : List Byte) : Decoded Instr :=
  match bs with
  | [] => .bad .truncated
  | op :: rest =>
    match dispatchTable op with
    | none => .bad (.unknownOpcode op none)
    | some h => h.decode op rest

/-! ### The encoder -/

def encode16 (w : Word) : List Byte := [lowByte w, highByte w]

/-- mod, rm and displacement bytes of a memory operand (30_encoding.md R103). -/
def MemOp.modBits : MemOp → BitVec 2
  | .direct _ => 0
  | .indirect _ => 0
  | .indirect8 _ _ => 1
  | .indirect16 _ _ => 2

def MemOp.rmBits : MemOp → BitVec 3
  | .direct _ => 6
  | .indirect b => b.code
  | .indirect8 b _ => b.code
  | .indirect16 b _ => b.code

def MemOp.dispBytes : MemOp → List Byte
  | .direct off => encode16 off
  | .indirect _ => []
  | .indirect8 _ d => [d]
  | .indirect16 _ d => encode16 d

/-- `dlen`: the displacement bytes of an operand (30_encoding.md R95). -/
def MemOp.dlen : MemOp → Nat
  | .direct _ => 2
  | .indirect _ => 0
  | .indirect8 _ _ => 1
  | .indirect16 _ _ => 2

def RM.dlen {ρ : Type} : RM ρ → Nat
  | .reg _ => 0
  | .mem m => m.dlen

/-- The ModRM byte of an operand, with `reg` in the reg field; `num` numbers its registers. -/
def RM.modrm {ρ : Type} (num : ρ → BitVec 3) (reg : BitVec 3) : RM ρ → Byte
  | .reg r => packModrm 3 reg (num r)
  | .mem m => packModrm m.modBits reg m.rmBits

/-- ModRM and displacement bytes. -/
def RM.bytes {ρ : Type} (num : ρ → BitVec 3) (reg : BitVec 3) (rm : RM ρ) : List Byte :=
  match rm with
  | .reg _ => [rm.modrm num reg]
  | .mem m => rm.modrm num reg :: m.dispBytes

/-- The bytes of an instruction, in fetch order (30_encoding.md R94, R97, R101). -/
def encode : Instr → List Byte
  | .movRm8R8 dst src => 0x88 :: dst.bytes Reg8.code src.code
  | .movRm16R16 dst src => 0x89 :: dst.bytes Reg16.code src.code
  | .movR8Rm8 dst src => 0x8A :: src.bytes Reg8.code dst.code
  | .movR16Rm16 dst src => 0x8B :: src.bytes Reg16.code dst.code
  | .movSregRm16 dst src => 0x8E :: src.bytes Reg16.code dst
  | .movAlMoffs8 off => 0xA0 :: encode16 off
  | .movAxMoffs16 off => 0xA1 :: encode16 off
  | .movR8Imm8 dst imm => [packOpcode 0b10110 dst.code, imm]
  | .movR16Imm16 dst imm => packOpcode 0b10111 dst.code :: encode16 imm
  | .movRm8Imm8 dst imm => 0xC6 :: (dst.bytes Reg8.code 0 ++ [imm])
  | .movRm16Imm16 dst imm => 0xC7 :: (dst.bytes Reg16.code 0 ++ encode16 imm)
  | .subR8Rm8 dst src => 0x2A :: src.bytes Reg8.code dst.code
  | .subR16Rm16 dst src => 0x2B :: src.bytes Reg16.code dst.code
  | .cmpR8Rm8 lhs rhs => 0x3A :: rhs.bytes Reg8.code lhs.code
  | .cmpR16Rm16 lhs rhs => 0x3B :: rhs.bytes Reg16.code lhs.code
  | .subRm16Imm8 dst imm => 0x83 :: (dst.bytes Reg16.code 5 ++ [imm])
  | .cmpRm16Imm8 lhs imm => 0x83 :: (lhs.bytes Reg16.code 7 ++ [imm])
  | .cmpRm8Imm8 lhs imm => 0x80 :: (lhs.bytes Reg8.code 7 ++ [imm])
  | .andRm8Imm8 dst imm => 0x80 :: (dst.bytes Reg8.code 4 ++ [imm])
  | .andRm16Imm16 dst imm => 0x81 :: (dst.bytes Reg16.code 4 ++ encode16 imm)
  | .andRm16Imm8 dst imm => 0x83 :: (dst.bytes Reg16.code 4 ++ [imm])
  | .shrRm8 dst => 0xD0 :: dst.bytes Reg8.code 5
  | .shrRm16 dst => 0xD1 :: dst.bytes Reg16.code 5
  | .pushR16 src => [packOpcode 0b01010 src.code]
  | .popR16 dst => [packOpcode 0b01011 dst.code]
  | .jz rel => [0x74, rel]
  | .jnz rel => [0x75, rel]
  | .jl rel => [0x7C, rel]
  | .jmp rel => [0xEB, rel]
  | .call rel => 0xE8 :: encode16 rel
  | .ret => [0xC3]
  | .scasb => [0xAE]
  | .repneScasb => [0xF2, 0xAE]
  | .int vector => [0xCD, vector]

/-- The length of an instruction (30_encoding.md R95). -/
def Instr.length : Instr → Nat
  | .movRm8R8 dst _ => 2 + dst.dlen
  | .movRm16R16 dst _ => 2 + dst.dlen
  | .movR8Rm8 _ src => 2 + src.dlen
  | .movR16Rm16 _ src => 2 + src.dlen
  | .movSregRm16 _ src => 2 + src.dlen
  | .movAlMoffs8 _ => 3
  | .movAxMoffs16 _ => 3
  | .movR8Imm8 _ _ => 2
  | .movR16Imm16 _ _ => 3
  | .movRm8Imm8 dst _ => 3 + dst.dlen
  | .movRm16Imm16 dst _ => 4 + dst.dlen
  | .subR8Rm8 _ src => 2 + src.dlen
  | .subR16Rm16 _ src => 2 + src.dlen
  | .cmpR8Rm8 _ rhs => 2 + rhs.dlen
  | .cmpR16Rm16 _ rhs => 2 + rhs.dlen
  | .subRm16Imm8 dst _ => 3 + dst.dlen
  | .cmpRm16Imm8 lhs _ => 3 + lhs.dlen
  | .cmpRm8Imm8 lhs _ => 3 + lhs.dlen
  | .andRm8Imm8 dst _ => 3 + dst.dlen
  | .andRm16Imm16 dst _ => 4 + dst.dlen
  | .andRm16Imm8 dst _ => 3 + dst.dlen
  | .shrRm8 dst => 2 + dst.dlen
  | .shrRm16 dst => 2 + dst.dlen
  | .pushR16 _ => 1
  | .popR16 _ => 1
  | .jz _ => 2
  | .jnz _ => 2
  | .jl _ => 2
  | .jmp _ => 2
  | .call _ => 3
  | .ret => 1
  | .scasb => 1
  | .repneScasb => 2
  | .int _ => 2

/-! ### The rows of the opcode table -/

/-- A row of spec/opcode_table.json: `width` bytes, read as one number with the first byte the most
significant, match when `bytes &&& mask = pattern` (30_encoding.md R113). -/
structure OpcodeRow where
  width : Nat
  pattern : Nat
  mask : Nat
  deriving DecidableEq, Repr

/-- The first `n` bytes as one number, the first byte most significant; `none` if there are fewer. -/
def leadingNumber : Nat → List Byte → Option Nat
  | 0, _ => some 0
  | _ + 1, [] => none
  | n + 1, b :: bs => (leadingNumber n bs).map fun v => b.toNat * 256 ^ n + v

def OpcodeRow.matches (r : OpcodeRow) (bs : List Byte) : Bool :=
  match leadingNumber r.width bs with
  | some v => v &&& r.mask == r.pattern
  | none => false

/-- The row of an instruction (30_encoding.md R97, R113). -/
def Instr.row : Instr → OpcodeRow
  | .movRm8R8 _ _ => ⟨1, 0x88, 0xFF⟩
  | .movRm16R16 _ _ => ⟨1, 0x89, 0xFF⟩
  | .movR8Rm8 _ _ => ⟨1, 0x8A, 0xFF⟩
  | .movR16Rm16 _ _ => ⟨1, 0x8B, 0xFF⟩
  | .movSregRm16 _ _ => ⟨1, 0x8E, 0xFF⟩
  | .movAlMoffs8 _ => ⟨1, 0xA0, 0xFF⟩
  | .movAxMoffs16 _ => ⟨1, 0xA1, 0xFF⟩
  | .movR8Imm8 _ _ => ⟨1, 0xB0, 0xF8⟩
  | .movR16Imm16 _ _ => ⟨1, 0xB8, 0xF8⟩
  | .movRm8Imm8 _ _ => ⟨2, 0xC600, 0xFF38⟩
  | .movRm16Imm16 _ _ => ⟨2, 0xC700, 0xFF38⟩
  | .subR8Rm8 _ _ => ⟨1, 0x2A, 0xFF⟩
  | .subR16Rm16 _ _ => ⟨1, 0x2B, 0xFF⟩
  | .cmpR8Rm8 _ _ => ⟨1, 0x3A, 0xFF⟩
  | .cmpR16Rm16 _ _ => ⟨1, 0x3B, 0xFF⟩
  | .subRm16Imm8 _ _ => ⟨2, 0x8328, 0xFF38⟩
  | .cmpRm16Imm8 _ _ => ⟨2, 0x8338, 0xFF38⟩
  | .cmpRm8Imm8 _ _ => ⟨2, 0x8038, 0xFF38⟩
  | .andRm8Imm8 _ _ => ⟨2, 0x8020, 0xFF38⟩
  | .andRm16Imm16 _ _ => ⟨2, 0x8120, 0xFF38⟩
  | .andRm16Imm8 _ _ => ⟨2, 0x8320, 0xFF38⟩
  | .shrRm8 _ => ⟨2, 0xD028, 0xFF38⟩
  | .shrRm16 _ => ⟨2, 0xD128, 0xFF38⟩
  | .pushR16 _ => ⟨1, 0x50, 0xF8⟩
  | .popR16 _ => ⟨1, 0x58, 0xF8⟩
  | .jz _ => ⟨1, 0x74, 0xFF⟩
  | .jnz _ => ⟨1, 0x75, 0xFF⟩
  | .jl _ => ⟨1, 0x7C, 0xFF⟩
  | .jmp _ => ⟨1, 0xEB, 0xFF⟩
  | .call _ => ⟨1, 0xE8, 0xFF⟩
  | .ret => ⟨1, 0xC3, 0xFF⟩
  | .scasb => ⟨1, 0xAE, 0xFF⟩
  | .repneScasb => ⟨2, 0xF2AE, 0xFFFF⟩
  | .int _ => ⟨1, 0xCD, 0xFF⟩

/-! ### The host's word form -/

/-- The longest instruction: C7 with a 16-bit displacement (42_data_movement.md R191). -/
def maxLength : Nat := 6

/-- The `n` bytes of a table word, in fetch order: spec/opcode_table.json numbers a two-byte pattern
with the first byte most significant (30_encoding.md R113; log entry 7). -/
def tableBytes : Nat → Nat → List Byte
  | 0, _ => []
  | n + 1, w => BitVec.ofNat 8 (w >>> (8 * n)) :: tableBytes n w

/-- A table word laid out as the image holds it, the bytes the table gives no bits for zero. -/
def layoutTableWord (nbits w : Nat) : List Byte :=
  tableBytes (nbits / 8) w ++ List.replicate (maxLength - nbits / 8) 0

/-- What the decoder reads from a table word. -/
def decodeTableWord (nbits w : Nat) : Option Instr :=
  match decode (layoutTableWord nbits w) with
  | .ok i _ => some i
  | .bad _ => none

end Sys2Proof
end

