-- ==== Sys2Proof/Machine/Operands.lean ====
section
/-! DEFINITION. Operands: the effective address, locations and how they are read and written
(40_operand_resolver.md), and the resolver at the level of instruction bytes with its commit flag. -/

namespace Sys2Proof.Machine

/-- The value of an address base; sums are taken mod 2^16 (40_operand_resolver.md R133, R134). -/
def State.base (s : State) : Base → Word
  | .bxsi => s.r16 .bx + s.r16 .si
  | .bxdi => s.r16 .bx + s.r16 .di
  | .bpsi => s.r16 .bp + s.r16 .si
  | .bpdi => s.r16 .bp + s.r16 .di
  | .si => s.r16 .si
  | .di => s.r16 .di
  | .bp => s.r16 .bp
  | .bx => s.r16 .bx

/-- The effective address, a 16-bit offset (R132 to R134). -/
def State.ea (s : State) : MemOp → Word
  | .direct off => off
  | .indirect b => s.base b
  | .indirect8 b d => s.base b + sext16 d
  | .indirect16 b d => s.base b + d

/-- The image index of a memory operand: always in DS (R133, 20_memory.md R67). -/
def State.addr (s : State) (m : MemOp) : Nat := s.lin .ds (s.ea m).toNat

/-- A location (R131): a register of the operand's width, or the bytes at an image index. -/
inductive Loc (ρ : Type)
  | reg (r : ρ)
  | mem (a : Nat)
  deriving DecidableEq, Repr

/-- The location an operand resolves to (R132, R135). -/
def State.loc {ρ : Type} (s : State) : RM ρ → Loc ρ
  | .reg r => .reg r
  | .mem m => .mem (s.addr m)

/-- `ReadLoc` at width 8 (R136). -/
def State.readLoc8 (s : State) : Loc Reg8 → Except Cond Byte
  | .reg r => .ok (s.r8 r)
  | .mem a => s.read8 a

/-- `ReadLoc` at width 16 (R136). -/
def State.readLoc16 (s : State) : Loc Reg16 → Except Cond Word
  | .reg r => .ok (s.r16 r)
  | .mem a => s.read16 a

/-- `WriteLoc(loc, Some(v))` at width 8 (R137). -/
def State.writeLoc8 (s : State) (l : Loc Reg8) (v : Byte) : Except Cond State :=
  match l with
  | .reg r => .ok (s.setR8 r v)
  | .mem a => s.write8 a v

/-- `WriteLoc(loc, Some(v))` at width 16 (R137). -/
def State.writeLoc16 (s : State) (l : Loc Reg16) (v : Word) : Except Cond State :=
  match l with
  | .reg r => .ok (s.setR16 r v)
  | .mem a => s.write16 a v

/-- `WriteLoc(loc, None)` at width 8 with the immediate already taken from the instruction:
defined for memory only (R137, R138). -/
def State.writeImm8 (s : State) (op : Byte) (dst : RM8) (imm : Byte) : Except Cond State :=
  match dst with
  | .reg _ => .error (.unsupportedOperand op (dst.modrm Reg8.code 0))
  | .mem m => s.write8 (s.addr m) imm

/-- `WriteLoc(loc, None)` at width 16 (R137, R138). -/
def State.writeImm16 (s : State) (op : Byte) (dst : RM16) (imm : Word) : Except Cond State :=
  match dst with
  | .reg _ => .error (.unsupportedOperand op (dst.modrm Reg16.code 0))
  | .mem m => s.write16 (s.addr m) imm

/-! ### The resolver on instruction bytes (R130, R132, R139)

The meanings work on operands the decoder has already read. This is the same resolution as the rules
write it, reading the displacement at pc; `Obligations` state that the two agree. -/

/-- `ResolveRM` past mode 3: the displacement bytes at pc are fetched. -/
def State.resolveMem (s : State) (md : BitVec 2) (rm : BitVec 3) : Except Cond (Nat × State) :=
  if md = 0 then
    if rm = 6 then s.fetch16.map fun (d, s1) => (s.addr (.direct d), s1)
    else .ok (s.addr (.indirect (Base.ofCode rm)), s)
  else if md = 1 then s.fetch8.map fun (d, s1) => (s.addr (.indirect8 (Base.ofCode rm) d), s1)
  else s.fetch16.map fun (d, s1) => (s.addr (.indirect16 (Base.ofCode rm) d), s1)

/-- `ResolveRM(modrm, w, commit)` (R132): the location, and the state with pc past the displacement,
or, when `commit` is false, with pc rolled back (R139). `name` names a register at width `w`. -/
def State.resolveRM {ρ : Type} (s : State) (name : BitVec 3 → ρ) (modrm : Byte) (commit : Bool) :
    Except Cond (Loc ρ × State) :=
  if modField modrm = 3 then .ok (.reg (name (rmField modrm)), s)
  else (s.resolveMem (modField modrm) (rmField modrm)).map fun (a, s1) =>
    (.mem a, if commit then s1 else s1.setPc s.pc)

/-- A resolution and `WriteLoc(loc, None)` at width 8 on instruction bytes: the immediate follows the
displacement, and both are rolled back when `commit` is false (R137, R139). -/
def State.resolveStoreImm8 (s : State) (op modrm : Byte) (commit : Bool) : Except Cond State :=
  (s.resolveRM Reg8.ofCode modrm true).bind fun (l, s1) =>
    match l with
    | .reg _ => .error (.unsupportedOperand op modrm)
    | .mem a => s1.fetch8.bind fun (v, s2) =>
        (s2.write8 a v).map fun s3 => if commit then s3 else s3.setPc s.pc

/-- The same at width 16. -/
def State.resolveStoreImm16 (s : State) (op modrm : Byte) (commit : Bool) : Except Cond State :=
  (s.resolveRM Reg16.ofCode modrm true).bind fun (l, s1) =>
    match l with
    | .reg _ => .error (.unsupportedOperand op modrm)
    | .mem a => s1.fetch16.bind fun (v, s2) =>
        (s2.write16 a v).map fun s3 => if commit then s3 else s3.setPc s.pc

end Sys2Proof.Machine
end

