-- ==== Sys2Proof/Machine/Arith.lean ====
section
/-! DEFINITION. Subtract, compare, AND and shift (43_arith_logic.md). SUB and CMP call the flag
function once, on the operands as read; AND and SHR write no flag. -/

namespace Sys2Proof.Machine

/-- R210. -/
def execSubR8Rm8 (dst : Reg8) (src : RM8) (s : State) : Result :=
  s.settle ((s.readLoc8 (s.loc src)).bind fun b =>
    (s.subFlags (s.r8 dst) b).map fun s1 => (s1.setR8 dst (s.r8 dst - b)).skip (1 + src.dlen))

/-- R211. -/
def execSubR16Rm16 (dst : Reg16) (src : RM16) (s : State) : Result :=
  s.settle ((s.readLoc16 (s.loc src)).bind fun b =>
    (s.subFlags (s.r16 dst) b).map fun s1 => (s1.setR16 dst (s.r16 dst - b)).skip (1 + src.dlen))

/-- R212. -/
def execCmpR8Rm8 (lhs : Reg8) (rhs : RM8) (s : State) : Result :=
  s.settle ((s.readLoc8 (s.loc rhs)).bind fun b =>
    (s.subFlags (s.r8 lhs) b).map (·.skip (1 + rhs.dlen)))

/-- R213. -/
def execCmpR16Rm16 (lhs : Reg16) (rhs : RM16) (s : State) : Result :=
  s.settle ((s.readLoc16 (s.loc rhs)).bind fun b =>
    (s.subFlags (s.r16 lhs) b).map (·.skip (1 + rhs.dlen)))

/-- R214: one resolution serves the read and the write. -/
def execSubRm16Imm8 (dst : RM16) (imm : Byte) (s : State) : Result :=
  s.settle ((s.readLoc16 (s.loc dst)).bind fun a =>
    (s.subFlags a (sext16 imm)).bind fun s1 =>
      (s1.writeLoc16 (s.loc dst) (a - sext16 imm)).map (·.skip (2 + dst.dlen)))

/-- R215. -/
def execCmpRm16Imm8 (lhs : RM16) (imm : Byte) (s : State) : Result :=
  s.settle ((s.readLoc16 (s.loc lhs)).bind fun a =>
    (s.subFlags a (sext16 imm)).map (·.skip (2 + lhs.dlen)))

/-- R216. -/
def execCmpRm8Imm8 (lhs : RM8) (imm : Byte) (s : State) : Result :=
  s.settle ((s.readLoc8 (s.loc lhs)).bind fun a => (s.subFlags a imm).map (·.skip (2 + lhs.dlen)))

/-- Reads a byte operand, writes `f` of it back and consumes `n` bytes: AND and SHR. -/
def State.modify8 (s : State) (dst : RM8) (f : Byte → Byte) (n : Nat) : Except Cond State :=
  (s.readLoc8 (s.loc dst)).bind fun v => (s.writeLoc8 (s.loc dst) (f v)).map (·.skip n)

/-- Reads a word operand, writes `f` of it back and consumes `n` bytes: AND and SHR. -/
def State.modify16 (s : State) (dst : RM16) (f : Word → Word) (n : Nat) : Except Cond State :=
  (s.readLoc16 (s.loc dst)).bind fun v => (s.writeLoc16 (s.loc dst) (f v)).map (·.skip n)

/-- R217. -/
def execAndRm8Imm8 (dst : RM8) (imm : Byte) (s : State) : Result :=
  s.settle (s.modify8 dst (· &&& imm) (2 + dst.dlen))

/-- R218. -/
def execAndRm16Imm16 (dst : RM16) (imm : Word) (s : State) : Result :=
  s.settle (s.modify16 dst (· &&& imm) (3 + dst.dlen))

/-- R219. -/
def execAndRm16Imm8 (dst : RM16) (imm : Byte) (s : State) : Result :=
  s.settle (s.modify16 dst (· &&& sext16 imm) (2 + dst.dlen))

/-- R220. -/
def execShrRm8 (dst : RM8) (s : State) : Result :=
  s.settle (s.modify8 dst (· >>> 1) (1 + dst.dlen))

/-- R221. -/
def execShrRm16 (dst : RM16) (s : State) : Result :=
  s.settle (s.modify16 dst (· >>> 1) (1 + dst.dlen))

end Sys2Proof.Machine
end

