-- ==== Sys2Proof/Machine/Control.lean ====
section
/-! DEFINITION. Jumps, CALL and RET (45_control_transfer.md). CALL and RET use the auxiliary call
stack, never SP or the image (90_conflicts.md C7). -/

namespace Sys2Proof.Machine

/-- A short jump: the displacement byte is consumed, and when `taken` pc goes to the target; a jump
not taken computes none (R266). -/
def State.jumpShort (s : State) (taken : Bool) (rel : Byte) : Except Cond State :=
  if taken then (target (s.pc + 1) rel.toInt).map s.setPc else .ok (s.skip 1)

/-- R260. -/
def execJz (rel : Byte) (s : State) : Result := s.settle (s.jumpShort s.condZ rel)

/-- R261. -/
def execJnz (rel : Byte) (s : State) : Result := s.settle (s.jumpShort s.condNz rel)

/-- R262. -/
def execJl (rel : Byte) (s : State) : Result := s.settle (s.jumpShort s.condL rel)

/-- R263. -/
def execJmp (rel : Byte) (s : State) : Result := s.settle (s.jumpShort true rel)

/-- R264: the bound of the call stack is checked before the target. -/
def execCall (rel : Word) (s : State) : Result :=
  s.settle
    (if s.callStack.length = Config.callStackDepth then .error (.callStackOverflow (s.pc + 2))
     else (target (s.pc + 2) rel.toInt).map fun t => (s.pushCall (s.pc + 2)).setPc t)

/-- R265. -/
def execRet (s : State) : Result :=
  match s.callStack.getLast? with
  | none => .next (s.raise .callStackUnderflow)
  | some ret => .next (s.popCall.setPc ret)

end Sys2Proof.Machine
end

