-- ==== Sys2Proof/Machine/Mov.lean ====
section
/-! DEFINITION. Data movement (42_data_movement.md). A meaning is run in the state in which the
loop invokes the handler: pc just after the opcode byte (10_state.md R28; log entry 6). -/

namespace Sys2Proof.Machine

/-- R180. -/
def execMovRm8R8 (dst : RM8) (src : Reg8) (s : State) : Result :=
  s.settle ((s.writeLoc8 (s.loc dst) (s.r8 src)).map (·.skip (1 + dst.dlen)))

/-- R181. -/
def execMovRm16R16 (dst : RM16) (src : Reg16) (s : State) : Result :=
  s.settle ((s.writeLoc16 (s.loc dst) (s.r16 src)).map (·.skip (1 + dst.dlen)))

/-- R182. -/
def execMovR8Rm8 (dst : Reg8) (src : RM8) (s : State) : Result :=
  s.settle ((s.readLoc8 (s.loc src)).map fun v => (s.setR8 dst v).skip (1 + src.dlen))

/-- R183. -/
def execMovR16Rm16 (dst : Reg16) (src : RM16) (s : State) : Result :=
  s.settle ((s.readLoc16 (s.loc src)).map fun v => (s.setR16 dst v).skip (1 + src.dlen))

/-- R185: a field of 6 or 7 is raised before the operand is resolved. -/
def execMovSregRm16 (dst : BitVec 3) (src : RM16) (s : State) : Result :=
  match SReg.ofField dst with
  | none => .next (s.raise (.unsupportedOperand 0x8E (src.modrm Reg16.code dst)))
  | some g => s.settle ((s.readLoc16 (s.loc src)).map fun v => (s.setSeg g v).skip (1 + src.dlen))

/-- R186. -/
def execMovAlMoffs8 (off : Word) (s : State) : Result :=
  s.settle ((s.read8 (s.lin .ds off.toNat)).map fun v => (s.setR8 .al v).skip 2)

/-- R187. -/
def execMovAxMoffs16 (off : Word) (s : State) : Result :=
  s.settle ((s.read16 (s.lin .ds off.toNat)).map fun v => (s.setR16 .ax v).skip 2)

/-- R188. -/
def execMovR8Imm8 (dst : Reg8) (imm : Byte) (s : State) : Result :=
  .next ((s.setR8 dst imm).skip 1)

/-- R189. -/
def execMovR16Imm16 (dst : Reg16) (imm : Word) (s : State) : Result :=
  .next ((s.setR16 dst imm).skip 2)

/-- R190. -/
def execMovRm8Imm8 (dst : RM8) (imm : Byte) (s : State) : Result :=
  s.settle ((s.writeImm8 0xC6 dst imm).map (·.skip (2 + dst.dlen)))

/-- R191. -/
def execMovRm16Imm16 (dst : RM16) (imm : Word) (s : State) : Result :=
  s.settle ((s.writeImm16 0xC7 dst imm).map (·.skip (3 + dst.dlen)))

end Sys2Proof.Machine
end

