-- ==== Sys2Proof/Machine/Services.lean ====
section
/-! DEFINITION. INT and the emulated BIOS and DOS services (47_interrupts.md). A service runs inside
the INT instruction, in the handler's state; the vector byte is consumed with it. -/

namespace Sys2Proof.Machine

open Sys2Proof.Config

/-- The services of R302. -/
inductive Service
  | setMode | setCursor | setColor | readKey | writeChar | readNoEcho | writeString | getTime | exit
  deriving DecidableEq, Repr

/-- R301, R302: the service of a vector and sub-code, the rows tried in the table's order (log
entry 10). -/
def Service.find (p : Params) (n ah : Byte) : Option Service :=
  if n = 0x10 then
    if ah = 0x00 then some .setMode
    else if ah = 0x02 then some .setCursor
    else if ah = 0x0B then some .setColor
    else none
  else if n = 0x16 then
    if ah = 0x00 then some .readKey else none
  else if n = 0x21 then
    if ah = 0x02 then some .writeChar
    else if ah = p.dosReadNoEchoAh then some .readNoEcho
    else if ah = 0x09 then some .writeString
    else if ah = 0x2C then some .getTime
    else if ah = 0x4C then some .exit
    else none
  else none

/-- R305. -/
def svcSetMode (s : State) : State :=
  if s.r8 .al = s.cfg.videoSurfaceMode then
    { s.emit [.activateVideoSurface] with videoMode := true }
  else s

/-- R306. -/
def svcSetCursor (s : State) : State :=
  { s with cursor := { row := s.r8 .dh, col := s.r8 .dl, page := s.r8 .bh } }

/-- R307. -/
def svcSetColor (s : State) : State := s.emit [.setBackgroundColor (s.r8 .bl)]

/-- R308 and R310: a blocking read into AL; AH is kept. -/
def svcReadCharacter (s : State) : State := s.pollKey

/-- R309. -/
def svcWriteChar (s : State) : State := (s.emit [.writeCharacter (s.r8 .dl)]).setR8 .al (s.r8 .dl)

/-- R311, R312: the bytes before `$` go out one by one in text mode and as one batch in video mode.
Without a `$` before the image end the read fails; in text mode the bytes already sent stay sent
(60_exceptions.md R344). -/
def svcWriteString (s : State) : State :=
  let a := s.lin .ds (s.r16 .dx).toNat
  let text := (s.mem.collect (s.room a) a).1
  let found := (s.mem.collect (s.room a) a).2
  let sent := if s.videoMode then s else s.emit (text.map .writeCharacter)
  if found then
    (if s.videoMode then s.emit [.writeBatch text s.cursor.col s.cursor.row] else sent).skip 1
  else sent.raise (s.pastImage a)

/-- R313. -/
def svcGetTime (s : State) : State :=
  let t := s.nextClock
  (s.dropClock.setR16 .cx (joinBytes (BitVec.ofNat 8 t.hour) (BitVec.ofNat 8 t.minute))).setR16 .dx
    (joinBytes (BitVec.ofNat 8 t.second) (BitVec.ofNat 8 t.hundredth))

/-- R315. -/
def svcExit (s : State) : State := s.halt (.exit (s.r8 .al))

/-- Runs a service in the handler's state. -/
def Service.run (v : Service) (s : State) : State :=
  match v with
  | .setMode => svcSetMode (s.skip 1)
  | .setCursor => svcSetCursor (s.skip 1)
  | .setColor => svcSetColor (s.skip 1)
  | .readKey => svcReadCharacter (s.skip 1)
  | .writeChar => svcWriteChar (s.skip 1)
  | .readNoEcho => svcReadCharacter (s.skip 1)
  | .writeString => svcWriteString s
  | .getTime => svcGetTime (s.skip 1)
  | .exit => svcExit (s.skip 1)

/-- R300; R303: a vector and sub-code without a service is only diagnosed. -/
def execInt (vector : Byte) (s : State) : Result :=
  match Service.find s.cfg vector (s.r8 .ah) with
  | some v => .next (v.run s)
  | none => .next ((s.skip 1).note (.unsupportedInterrupt vector (s.r8 .ah)))

end Sys2Proof.Machine
end

