-- ==== Sys2Proof/Machine/Stack.lean ====
section
/-! DEFINITION. PUSH and POP on the machine stack at SS:SP (44_stack.md). -/

namespace Sys2Proof.Machine

/-- R240: the register is read before SP changes. -/
def execPushR16 (src : Reg16) (s : State) : Result :=
  s.settle (s.push16 (s.r16 src))

/-- R241: the register is written after SP is incremented. -/
def execPopR16 (dst : Reg16) (s : State) : Result :=
  s.settle (s.pop16.map fun (v, s1) => s1.setR16 dst v)

end Sys2Proof.Machine
end

