-- ==== Sys2Proof/Machine/Strings.lean ====
section
/-! DEFINITION. The string scan (46_string.md): one instruction that runs a whole loop from ES:DI;
it never uses CX (90_conflicts.md C9). -/

namespace Sys2Proof.Machine

/-- The scan of R290, after which `n` more bytes of the instruction are consumed. The offset is not
reduced while scanning; DI is, at the end. -/
def State.scanString (s : State) (n : Nat) : Except Cond State :=
  let a := s.lin .es (s.r16 .di).toNat
  match s.mem.scan (s.r8 .al) (s.room a) a with
  | none => .error (s.pastImage a)
  | some (e, hit) =>
    .ok (((s.setZf hit).setR16 .di (BitVec.ofNat 16 ((s.r16 .di).toNat + (e - a) + 1))).skip n)

/-- R290. -/
def execScasb (s : State) : Result := s.settle (s.scanString 0)

/-- R291: the same scan; AE is consumed after the prefix. -/
def execRepneScasb (s : State) : Result := s.settle (s.scanString 1)

end Sys2Proof.Machine
end

