-- ==== Sys2Proof/Machine/Dispatch.lean ====
section
/-! DEFINITION. The dispatch of a decoded instruction to its meaning (30_encoding.md R91, R92). -/

namespace Sys2Proof.Machine

-- `s` is the state in which the loop invokes the handler: pc just after the opcode byte.
def exec (i : Instr) (s : State) : Host.Outcome State Fault Refusal :=
  match i with
  | .movRm8R8 dst src => Sys2Proof.Machine.execMovRm8R8 dst src s
  | .movRm16R16 dst src => Sys2Proof.Machine.execMovRm16R16 dst src s
  | .movR8Rm8 dst src => Sys2Proof.Machine.execMovR8Rm8 dst src s
  | .movR16Rm16 dst src => Sys2Proof.Machine.execMovR16Rm16 dst src s
  | .movSregRm16 dst src => Sys2Proof.Machine.execMovSregRm16 dst src s
  | .movAlMoffs8 off => Sys2Proof.Machine.execMovAlMoffs8 off s
  | .movAxMoffs16 off => Sys2Proof.Machine.execMovAxMoffs16 off s
  | .movR8Imm8 dst imm => Sys2Proof.Machine.execMovR8Imm8 dst imm s
  | .movR16Imm16 dst imm => Sys2Proof.Machine.execMovR16Imm16 dst imm s
  | .movRm8Imm8 dst imm => Sys2Proof.Machine.execMovRm8Imm8 dst imm s
  | .movRm16Imm16 dst imm => Sys2Proof.Machine.execMovRm16Imm16 dst imm s
  | .subR8Rm8 dst src => Sys2Proof.Machine.execSubR8Rm8 dst src s
  | .subR16Rm16 dst src => Sys2Proof.Machine.execSubR16Rm16 dst src s
  | .cmpR8Rm8 lhs rhs => Sys2Proof.Machine.execCmpR8Rm8 lhs rhs s
  | .cmpR16Rm16 lhs rhs => Sys2Proof.Machine.execCmpR16Rm16 lhs rhs s
  | .subRm16Imm8 dst imm => Sys2Proof.Machine.execSubRm16Imm8 dst imm s
  | .cmpRm16Imm8 lhs imm => Sys2Proof.Machine.execCmpRm16Imm8 lhs imm s
  | .cmpRm8Imm8 lhs imm => Sys2Proof.Machine.execCmpRm8Imm8 lhs imm s
  | .andRm8Imm8 dst imm => Sys2Proof.Machine.execAndRm8Imm8 dst imm s
  | .andRm16Imm16 dst imm => Sys2Proof.Machine.execAndRm16Imm16 dst imm s
  | .andRm16Imm8 dst imm => Sys2Proof.Machine.execAndRm16Imm8 dst imm s
  | .shrRm8 dst => Sys2Proof.Machine.execShrRm8 dst s
  | .shrRm16 dst => Sys2Proof.Machine.execShrRm16 dst s
  | .pushR16 src => Sys2Proof.Machine.execPushR16 src s
  | .popR16 dst => Sys2Proof.Machine.execPopR16 dst s
  | .jz rel => Sys2Proof.Machine.execJz rel s
  | .jnz rel => Sys2Proof.Machine.execJnz rel s
  | .jl rel => Sys2Proof.Machine.execJl rel s
  | .jmp rel => Sys2Proof.Machine.execJmp rel s
  | .call rel => Sys2Proof.Machine.execCall rel s
  | .ret => Sys2Proof.Machine.execRet s
  | .scasb => Sys2Proof.Machine.execScasb s
  | .repneScasb => Sys2Proof.Machine.execRepneScasb s
  | .int vector => Sys2Proof.Machine.execInt vector s

end Sys2Proof.Machine
end

