-- ==== Sys2Proof/Machine/Cycle.lean ====
section
/-! DEFINITION. One pass of the fetch-decode-execute loop (30_encoding.md R92). -/

namespace Sys2Proof.Machine

/-- The rest of a step once the opcode byte is fetched: `bytes` are the instruction's bytes, opcode
first, as many as the image holds from `start` on, and `s` is the state after the opcode fetch. -/
def runFetched (bytes : List Byte) (start : Nat) (s : State) : Result :=
  match decode bytes with
  | .ok i _ => exec i s
  | .bad .truncated => .next (s.raiseAt start (.fetchOutOfRange (start + bytes.length)))
  | .bad (.unknownOpcode op modrm) =>
    if op ∈ s.cfg.extraOpcodes then .refused (.extraOpcode op)
    else .next (s.raiseAt start (.unknownOpcode op modrm))
  | .bad (.unsupportedOperand op modrm) => .next (s.raiseAt start (.unsupportedOperand op modrm))

/-- The step of a core that is running and not blocked (R92). A failed opcode fetch leaves pc at
`start` and counts nothing (60_exceptions.md R344, R363). -/
def runInstruction (s : State) : Result :=
  match s.fetch8 with
  | .error c => .next (s.raiseAt s.pc c)
  | .ok (op, s1) => runFetched (s.window maxLength) s.pc (s1.countOpcode op)

/-- One step. A halted core takes none (60_exceptions.md R346); a blocked core polls the
collaborator and runs no instruction (R361). -/
def cycle (s : State) : Result :=
  match s.runState with
  | .halted r => .fault (.halted r)
  | .running => if s.blocked then .next s.pollKey else runInstruction s

/-- Writes `bytes` into the image from `a` on. -/
def Mem.writeBytes (m : Mem) (a : Nat) : List Byte → Mem
  | [] => m
  | b :: bs => Mem.writeBytes (m.write a b) (a + 1) bs

/-- `bytes` at pc, in a core that takes a step from there: running, not blocked, the image long
enough to hold them. -/
def State.placeAtPc (s : State) (bytes : List Byte) : State :=
  { s with
    mem := s.mem.writeBytes s.pc bytes
    runState := .running
    blocked := false
    cfg := { s.cfg with memSize := max s.cfg.memSize (s.pc + bytes.length) } }

end Sys2Proof.Machine
end

