-- ==== Sys2Proof/Machine/Step.lean ====
section
/-! DEFINITION. The step function and the host's way to place one instruction. -/

namespace Sys2Proof.Machine

/-- One step of the core (30_encoding.md R92). -/
def step (s : State) : Host.Outcome State Fault Refusal := cycle s

/-- `s` with a table word stored where the next step fetches (log entry 22). -/
def State.withFetchWord (s : State) (nbits w : Nat) : State :=
  s.placeAtPc (layoutTableWord nbits w)

end Sys2Proof.Machine
end

