-- ==== Sys2Proof/Safety.lean ====
section
/-! DEFINITION. The terms claims are stated in: the invariant of the machine, how a run ends, and
what an operand is before and after an instruction. -/

namespace Sys2Proof

/-- The families of the opcode table (sections 42 to 47 of the spec). -/
inductive Family
  | mov | subCmp | andShr | stack | control | scan | interrupt
  deriving DecidableEq, Repr

def Instr.family : Instr → Family
  | .movRm8R8 _ _ => .mov
  | .movRm16R16 _ _ => .mov
  | .movR8Rm8 _ _ => .mov
  | .movR16Rm16 _ _ => .mov
  | .movSregRm16 _ _ => .mov
  | .movAlMoffs8 _ => .mov
  | .movAxMoffs16 _ => .mov
  | .movR8Imm8 _ _ => .mov
  | .movR16Imm16 _ _ => .mov
  | .movRm8Imm8 _ _ => .mov
  | .movRm16Imm16 _ _ => .mov
  | .subR8Rm8 _ _ => .subCmp
  | .subR16Rm16 _ _ => .subCmp
  | .cmpR8Rm8 _ _ => .subCmp
  | .cmpR16Rm16 _ _ => .subCmp
  | .subRm16Imm8 _ _ => .subCmp
  | .cmpRm16Imm8 _ _ => .subCmp
  | .cmpRm8Imm8 _ _ => .subCmp
  | .andRm8Imm8 _ _ => .andShr
  | .andRm16Imm16 _ _ => .andShr
  | .andRm16Imm8 _ _ => .andShr
  | .shrRm8 _ => .andShr
  | .shrRm16 _ => .andShr
  | .pushR16 _ => .stack
  | .popR16 _ => .stack
  | .jz _ => .control
  | .jnz _ => .control
  | .jl _ => .control
  | .jmp _ => .control
  | .call _ => .control
  | .ret => .control
  | .scasb => .scan
  | .repneScasb => .scan
  | .int _ => .interrupt

/-- A memory operand with its width in bytes; a register operand is none. -/
def RM.memWithWidth {ρ : Type} (n : Nat) : RM ρ → Option (MemOp × Nat)
  | .reg _ => none
  | .mem m => some (m, n)

/-- The memory operand of an instruction and its width in bytes; A0 and A1 address DS directly. A
`MOV Sreg` whose field names no register resolves none (42_data_movement.md R185). The implicit
accesses of PUSH, POP, SCASB and the services are no operands. -/
def Instr.memOperand : Instr → Option (MemOp × Nat)
  | .movRm8R8 dst _ => dst.memWithWidth 1
  | .movRm16R16 dst _ => dst.memWithWidth 2
  | .movR8Rm8 _ src => src.memWithWidth 1
  | .movR16Rm16 _ src => src.memWithWidth 2
  | .movSregRm16 f src => if sregFieldOk f then src.memWithWidth 2 else none
  | .movAlMoffs8 off => some (.direct off, 1)
  | .movAxMoffs16 off => some (.direct off, 2)
  | .movR8Imm8 _ _ => none
  | .movR16Imm16 _ _ => none
  | .movRm8Imm8 dst _ => dst.memWithWidth 1
  | .movRm16Imm16 dst _ => dst.memWithWidth 2
  | .subR8Rm8 _ src => src.memWithWidth 1
  | .subR16Rm16 _ src => src.memWithWidth 2
  | .cmpR8Rm8 _ rhs => rhs.memWithWidth 1
  | .cmpR16Rm16 _ rhs => rhs.memWithWidth 2
  | .subRm16Imm8 dst _ => dst.memWithWidth 2
  | .cmpRm16Imm8 lhs _ => lhs.memWithWidth 2
  | .cmpRm8Imm8 lhs _ => lhs.memWithWidth 1
  | .andRm8Imm8 dst _ => dst.memWithWidth 1
  | .andRm16Imm16 dst _ => dst.memWithWidth 2
  | .andRm16Imm8 dst _ => dst.memWithWidth 2
  | .shrRm8 dst => dst.memWithWidth 1
  | .shrRm16 dst => dst.memWithWidth 2
  | .pushR16 _ => none
  | .popR16 _ => none
  | .jz _ => none
  | .jnz _ => none
  | .jl _ => none
  | .jmp _ => none
  | .call _ => none
  | .ret => none
  | .scasb => none
  | .repneScasb => none
  | .int _ => none

namespace Machine

open Sys2Proof.Config

/-! ### Ends of a run -/

/-- `d` is the diagnostic of the halt reason `r`, for the instruction at `start`
(60_exceptions.md R342). -/
def Reports (start : Nat) (r : HaltReason) (d : DiagEvent) : Prop :=
  ∃ c : Cond, r = c.reason start ∧ d = c.event start

/-- The two ends the source defines (60_exceptions.md R343). -/
def HaltReason.sourceDefined : HaltReason → Bool
  | .exit _ => true
  | .unknownOpcode _ => true
  | .unsupportedOperand _ _ _ => false
  | .fetchOutOfRange _ _ => false
  | .memOutOfRange _ _ _ => false
  | .branchOutOfRange _ _ => false
  | .callStackOverflow _ _ => false
  | .callStackUnderflow _ => false
  | .unsupportedFlagOp _ _ => false

/-- A state a safe run may be in: running, or ended in a way the source defines. -/
def State.safe (s : State) : Prop := ∀ r, s.runState = .halted r → r.sourceDefined = true

/-- `s` halted for `r`, with the diagnostic `d`, and nothing else changed. -/
def State.haltedWith (s : State) (r : HaltReason) (d : DiagEvent) : State :=
  { s with runState := .halted r, diag := s.diag ++ [d] }

/-- How an instruction other than INT ends, invoked in `s`: it completes, the run state and the
diagnostic channel as they were, or it halts for a reason it reports and changes nothing else
(60_exceptions.md R342, R344, R347). -/
def CompletesOrHalts (s t : State) : Prop :=
  (t.runState = s.runState ∧ t.diag = s.diag) ∨
  ∃ r d, Reports (s.pc - 1) r d ∧ t = s.haltedWith r d

/-- `s` after the opcode fetch of a step (30_encoding.md R92). -/
def State.fetched (s : State) : State :=
  { s with pc := s.pc + 1, curOpcode := s.mem.read s.pc, instrCount := s.instrCount + 1 }

/-! ### The invariant -/

/-- What every step keeps: the image is canonical and inside `MEM_SIZE`, the call stack is bounded
(10_state.md R35), a core that ended for another reason than EXIT has reported it last
(60_exceptions.md R342), and a halted core waits for nothing. -/
structure State.Inv (s : State) : Prop where
  memCanonical : s.mem.wf
  memInside : ∀ c ∈ s.mem, c.1 < s.cfg.memSize
  callStackBounded : s.callStack.length ≤ callStackDepth
  haltReported : ∀ r, s.runState = .halted r →
    (∃ code, r = .exit code) ∨ ∃ start ds d, s.diag = ds ++ [d] ∧ Reports start r d
  haltNotBlocked : ∀ r, s.runState = .halted r → s.blocked = false

/-! ### Operands before and after -/

/-- The `n` bytes of the operand are in the image; a register always is there. -/
def State.fits {ρ : Type} (s : State) (n : Nat) : RM ρ → Prop
  | .reg _ => True
  | .mem m => s.addr m + n ≤ s.cfg.memSize

/-- `a` is one of the `n` bytes of the operand. -/
def State.holds {ρ : Type} (s : State) (n : Nat) (rm : RM ρ) (a : Nat) : Prop :=
  match rm with
  | .reg _ => False
  | .mem m => s.addr m ≤ a ∧ a < s.addr m + n

/-- From `s` to `t` no byte register but the operand, no word register but its parent, and no byte of
the image outside the operand changes. -/
def OnlyByteOperandChanges (dst : RM8) (s t : State) : Prop :=
  (∀ h, dst ≠ .reg h → t.r8 h = s.r8 h) ∧
  (∀ r, (∀ h, dst = .reg h → r ≠ parent h) → t.r16 r = s.r16 r) ∧
  ∀ a, ¬ s.holds 1 dst a → t.mem.read a = s.mem.read a

/-- From `s` to `t` no word register but the operand and no byte of the image outside it changes. -/
def OnlyWordOperandChanges (dst : RM16) (s t : State) : Prop :=
  (∀ r, dst ≠ .reg r → t.r16 r = s.r16 r) ∧
  ∀ a, ¬ s.holds 2 dst a → t.mem.read a = s.mem.read a

/-- No register and no byte of the image changes. -/
def NoOperandChanges (s t : State) : Prop :=
  (∀ r, t.r16 r = s.r16 r) ∧ ∀ a, t.mem.read a = s.mem.read a

/-- What no instruction but INT touches. -/
structure SameBackground (s t : State) : Prop where
  videoMode : t.videoMode = s.videoMode
  cursor : t.cursor = s.cursor
  blocked : t.blocked = s.blocked
  curOpcode : t.curOpcode = s.curOpcode
  instrCount : t.instrCount = s.instrCount
  io : t.io = s.io
  cfg : t.cfg = s.cfg
  keys : t.keys = s.keys
  clocks : t.clocks = s.clocks
  draws : t.draws = s.draws

/-! ### The rules in plain numbers -/

/-- The sum of base registers behind an address base, before it is taken mod 2^16
(40_operand_resolver.md R133). -/
def State.baseSum (s : State) : Base → Nat
  | .bxsi => (s.r16 .bx).toNat + (s.r16 .si).toNat
  | .bxdi => (s.r16 .bx).toNat + (s.r16 .di).toNat
  | .bpsi => (s.r16 .bp).toNat + (s.r16 .si).toNat
  | .bpdi => (s.r16 .bp).toNat + (s.r16 .di).toNat
  | .si => (s.r16 .si).toNat
  | .di => (s.r16 .di).toNat
  | .bp => (s.r16 .bp).toNat
  | .bx => (s.r16 .bx).toNat

/-- `(a - b) mod 2^w` for `a, b < 2^w` (41_flags.md R169). -/
def wrapSub (w a b : Nat) : Nat := (a + 2 ^ w - b) % 2 ^ w

/-- The flags of the subtraction `a - b` at width `w`, in numbers (41_flags.md R160 to R164). -/
structure FlagsOfSub (reading : OfReading) (w a b : Nat) (t : State) : Prop where
  cf : t.flag .cf = true ↔ a % 16 < b % 16
  zf : t.flag .zf = true ↔ a = b
  sf : t.flag .sf = true ↔ 2 ^ (w - 1) ≤ wrapSub w a b
  of : t.flag .of = true ↔ reading = .wrap ∧ a < wrapSub w a b

end Machine

end Sys2Proof
end

