-- ==== Sys2Proof/Certificates/Slice0/Obligations.lean ====
section
/-! DEFINITION. The statements for the provers. In a statement about `exec`, `s` is the state in
which the loop invokes the handler, its pc just after the opcode byte, so `s.pc - 1` is the index of
the opcode byte (log entries 6 and 20). A docstring names the decision `Dn` of 92_eei_decisions.md
its statement rests on where the spec marks the point as its own choice. -/

open Sys2Proof Sys2Proof.Machine Sys2Proof.Config

/-! ### Encoding -/

/-- Decoding the bytes of a well-formed instruction, whatever follows them, gives it back
(30_encoding.md sections 2 to 6). -/
def Obligations.DecodeInvertsEncode : Prop :=
  ∀ (i : Instr) (rest : List Byte), i.wf = true → decode (encode i ++ rest) = .ok i rest

/-- Bytes that decode are the encoding of a well-formed instruction: no bit of them is dropped, and
no instruction has two encodings (30_encoding.md sections 2 to 6). -/
def Obligations.DecodedBytesAreTheEncoding : Prop :=
  ∀ (bs : List Byte) (i : Instr) (rest : List Byte),
    decode bs = .ok i rest → i.wf = true ∧ bs = encode i ++ rest

/-- The bytes of an instruction match its row of the opcode table and no other (R113, derived). -/
def Obligations.EncodingMatchesItsRowAlone : Prop :=
  ∀ (i j : Instr) (rest : List Byte),
    i.row.matches (encode i ++ rest) = true ∧
    (j.row.matches (encode i ++ rest) = true → j.row = i.row)

/-- Words written out in the spec decode to the instructions they stand for, one per family. -/
def Obligations.WordsOfTheSpecDecode : Prop :=
  decode [0xC7, 0x87, 0x00, 0x01, 0xCD, 0xAB] =
    .ok (.movRm16Imm16 (.mem (.indirect16 .bx 0x0100)) 0xABCD) [] ∧
  decode [0x89, 0x46, 0xFE] = .ok (.movRm16R16 (.mem (.indirect8 .bp 0xFE)) .ax) [] ∧
  decode [0x8E, 0xD8] = .ok (.movSregRm16 3 (.reg .ax)) [] ∧
  decode [0x83, 0xE9, 0x01] = .ok (.subRm16Imm8 (.reg .cx) 0x01) [] ∧
  decode [0x80, 0x3E, 0x10, 0x00, 0x24] = .ok (.cmpRm8Imm8 (.mem (.direct 0x0010)) 0x24) [] ∧
  decode [0x80, 0xE4, 0x0F] = .ok (.andRm8Imm8 (.reg .ah) 0x0F) [] ∧
  decode [0xD1, 0x2F] = .ok (.shrRm16 (.mem (.indirect .bx))) [] ∧
  decode [0x53, 0x5B] = .ok (.pushR16 .bx) [0x5B] ∧
  decode [0xE8, 0x02, 0x00] = .ok (.call 0x0002) [] ∧
  decode [0xF2, 0xAE] = .ok .repneScasb [] ∧
  decode [0xCD, 0x21] = .ok (.int 0x21) []

/-- Bytes that are no instruction are rejected for the reason the rules give. Unknown opcodes: a first
byte outside the list of R108, a group member outside the list of R101, an F2 not before AE (D2,
D23). Unsupported operands: C6 or C7 with member 0 and mode 3, 8E with reg 6 or 7, whether or not
more bytes follow (R138, R185, R190, R191, R345; D22, D24). Truncated: every proper prefix of an
encoding (R92, R93, R342 row 4; F2 alone: log entry 21). -/
def Obligations.RejectedBytesGetTheirReason : Prop :=
  (∀ (op : Byte) (rest : List Byte),
    op.toNat ∉ [0x2A, 0x2B, 0x3A, 0x3B, 0x50, 0x51, 0x52, 0x53, 0x54, 0x55, 0x56, 0x57,
      0x58, 0x59, 0x5A, 0x5B, 0x5C, 0x5D, 0x5E, 0x5F, 0x74, 0x75, 0x7C, 0x80, 0x81, 0x83,
      0x88, 0x89, 0x8A, 0x8B, 0x8E, 0xA0, 0xA1, 0xAE] →
    op.toNat ∉ [0xB0, 0xB1, 0xB2, 0xB3, 0xB4, 0xB5, 0xB6, 0xB7, 0xB8, 0xB9, 0xBA, 0xBB,
      0xBC, 0xBD, 0xBE, 0xBF, 0xC3, 0xC6, 0xC7, 0xCD, 0xD0, 0xD1, 0xE8, 0xEB, 0xF2] →
    decode (op :: rest) = .bad (.unknownOpcode op none)) ∧
  (∀ (op modrm : Byte) (rest : List Byte),
    op.toNat ∈ [0x80, 0x81, 0x83, 0xC6, 0xC7, 0xD0, 0xD1] →
    (op.toNat, modrm.toNat / 8 % 8) ∉ [(0x80, 4), (0x80, 7), (0x81, 4), (0x83, 4), (0x83, 5),
      (0x83, 7), (0xC6, 0), (0xC7, 0), (0xD0, 5), (0xD1, 5)] →
    decode (op :: modrm :: rest) = .bad (.unknownOpcode op (some modrm))) ∧
  (∀ (next : Byte) (rest : List Byte), next ≠ 0xAE →
    decode (0xF2 :: next :: rest) = .bad (.unknownOpcode 0xF2 none)) ∧
  (∀ (modrm : Byte) (rest : List Byte), modrm.toNat / 64 = 3 → modrm.toNat / 8 % 8 = 0 →
    decode (0xC6 :: modrm :: rest) = .bad (.unsupportedOperand 0xC6 modrm) ∧
    decode (0xC7 :: modrm :: rest) = .bad (.unsupportedOperand 0xC7 modrm)) ∧
  (∀ (modrm : Byte) (rest : List Byte), 6 ≤ modrm.toNat / 8 % 8 →
    decode (0x8E :: modrm :: rest) = .bad (.unsupportedOperand 0x8E modrm)) ∧
  (∀ (i : Instr) (n : Nat), i.wf = true → n < (encode i).length →
    decode ((encode i).take n) = .bad .truncated)

/-! ### The step -/

/-- When the bytes at pc decode to `i`, the step of a running core that is not blocked is `exec i`
in the state after the opcode fetch: pc one on, CurOpcode the opcode byte, InstrCount one more. -/
def Obligations.StepRunsTheDecodedInstruction : Prop :=
  ∀ (s : State) (i : Instr) (rest : List Byte),
    s.runState = .running → s.blocked = false → decode (s.window maxLength) = .ok i rest →
    step s = exec i
      { s with pc := s.pc + 1, curOpcode := s.mem.read s.pc, instrCount := s.instrCount + 1 }

/-- A well-formed instruction whose encoding lies in the image at pc is the one that runs, whatever
bytes follow it and whoever stored them (20_memory.md R75, D35). -/
def Obligations.StoredInstructionRuns : Prop :=
  ∀ (s : State) (i : Instr),
    s.runState = .running → s.blocked = false → i.wf = true →
    s.pc + i.length ≤ s.cfg.memSize →
    (∀ (k : Nat) (b : Byte), (encode i)[k]? = some b → s.mem.read (s.pc + k) = b) →
    step s = exec i s.fetched

/-- What a step does when the bytes at pc are no instruction that runs: a fetch past the image, an
unknown opcode or an unsupported operand halts the run with its diagnostic, pc just after the opcode
byte; a failed opcode fetch leaves pc and the counters alone (60_exceptions.md R341 to R345; D23,
D33, D34). An opcode of `EXTRA_OPCODES` is refused by name (model's choice, log entry 9). -/
def Obligations.StepHaltsOnWhatDoesNotDecode : Prop :=
  ∀ s : State, s.runState = .running → s.blocked = false →
    (s.cfg.memSize ≤ s.pc →
      step s = .next (s.haltedWith (.fetchOutOfRange s.pc s.pc) (.fetchOutOfRange s.pc s.pc))) ∧
    (s.pc < s.cfg.memSize → decode (s.window maxLength) = .bad .truncated →
      step s = .next (s.fetched.haltedWith (.fetchOutOfRange s.pc s.cfg.memSize)
        (.fetchOutOfRange s.pc s.cfg.memSize))) ∧
    (∀ op modrm, s.pc < s.cfg.memSize →
      decode (s.window maxLength) = .bad (.unknownOpcode op modrm) →
      (op ∉ s.cfg.extraOpcodes →
        step s = .next (s.fetched.haltedWith (.unknownOpcode op)
          (.unimplementedOpcode s.pc op modrm))) ∧
      (op ∈ s.cfg.extraOpcodes → step s = .refused (.extraOpcode op))) ∧
    (∀ op modrm, s.pc < s.cfg.memSize →
      decode (s.window maxLength) = .bad (.unsupportedOperand op modrm) →
      step s = .next (s.fetched.haltedWith (.unsupportedOperand s.pc op modrm)
        (.unsupportedOperand s.pc op modrm)))

/-- R346: from a halted state there is no step. -/
def Obligations.HaltedCoreTakesNoStep : Prop :=
  ∀ (s : State) (r : HaltReason), s.runState = .halted r →
    step s = .fault (.halted r) ∧ ∀ t, step s ≠ .next t

/-- A blocked core runs no instruction: it waits until the collaborator supplies a byte, which goes
to AL, and nothing else changes (60_exceptions.md R361). That a poll is a step, and that a read enters
the record of calls when it is answered, are the model's choices (log entries 3 and 14). -/
def Obligations.BlockedCoreOnlyWaits : Prop :=
  ∀ s : State, s.runState = .running → s.blocked = true →
    ∃ t, step s = .next t ∧ t.pc = s.pc ∧ t.curOpcode = s.curOpcode ∧
      t.instrCount = s.instrCount ∧ t.runState = .running ∧ t.flags = s.flags ∧
      t.segs = s.segs ∧ t.callStack = s.callStack ∧ t.mem = s.mem ∧ t.diag = s.diag ∧
      t.videoMode = s.videoMode ∧ t.cursor = s.cursor ∧ t.cfg = s.cfg ∧
      (∀ h, h ≠ .al → t.r8 h = s.r8 h) ∧ (∀ r, r ≠ .ax → t.r16 r = s.r16 r) ∧
      (∀ b, s.nextKey = some b →
        t.blocked = false ∧ t.r8 .al = b ∧ t.io = s.io ++ [.readCharacter true b]) ∧
      (s.nextKey = none → t.blocked = true ∧ t.regs = s.regs ∧ t.io = s.io)

/-! ### Reset and the invariant -/

/-- The state after reset meets the invariant. -/
def Obligations.ResetHasTheInvariant : Prop := State.reset.Inv

/-- The state after a boot meets the invariant, whatever the parameters and the loader's hand-off. -/
def Obligations.EveryBootHasTheInvariant : Prop :=
  ∀ (p : Params) (h : Handoff), (State.boot p h).Inv

/-- Every step from a state that meets the invariant gives one that meets it. -/
def Obligations.EveryStepKeepsTheInvariant : Prop :=
  ∀ s t : State, s.Inv → step s = .next t → t.Inv

/-- The reset values of 10_state.md section 9, for every choice of parameters and hand-off; bytes
past the file are 0 (D36). -/
def Obligations.BootLeavesTheResetValues : Prop :=
  ∀ (p : Params) (h : Handoff),
    (∀ r, (State.boot p h).r16 r = if r = .sp then h.resetSp else 0) ∧
    (∀ g, (State.boot p h).seg g =
      if g = .cs then h.resetCs else if g = .ss then h.resetSs else 0) ∧
    (State.boot p h).pc = h.resetPc ∧ (∀ f, (State.boot p h).flag f = false) ∧
    (State.boot p h).callStack = [] ∧ (State.boot p h).videoMode = false ∧
    (State.boot p h).cursor = { row := 0, col := 0, page := 0 } ∧
    (State.boot p h).runState = .running ∧ (State.boot p h).curOpcode = 0 ∧
    (State.boot p h).instrCount = 0 ∧ (State.boot p h).diag = [] ∧
    (State.boot p h).blocked = false ∧
    ∀ a, a < p.memSize → (State.boot p h).mem.read a = h.image.getD a 0

/-! ### Rules about the whole machine -/

/-- VideoMode becomes 1 only through INT 10h set mode with the surface's mode in AL, and no
instruction clears it (10_state.md section 6). -/
def Obligations.VideoModeIsSetByOneServiceAndNeverCleared : Prop :=
  ∀ (i : Instr) (s t : State), exec i s = .next t →
    (s.videoMode = true → t.videoMode = true) ∧
    (t.videoMode = true → s.videoMode = true ∨
      (i = .int 0x10 ∧ s.r8 .ah = 0x00 ∧ s.r8 .al = s.cfg.videoSurfaceMode))

/-- The diagnostic channel and the list of collaborator calls only grow, the parameters never change,
and InstrCount goes up by one exactly when an opcode byte is fetched (60_exceptions.md R347, R360,
R363; D34, D38). -/
def Obligations.StepsOnlyExtendTheRecords : Prop :=
  ∀ s t : State, step s = .next t →
    (∃ ds, t.diag = s.diag ++ ds) ∧ (∃ es, t.io = s.io ++ es) ∧ t.cfg = s.cfg ∧
    t.instrCount =
      if s.blocked = false ∧ s.pc < s.cfg.memSize then s.instrCount + 1 else s.instrCount

/-- R386: every instruction but SUB, CMP and the scans leaves the flags alone. -/
def Obligations.FlagsSurviveOtherInstructions : Prop :=
  ∀ (i : Instr) (s t : State), exec i s = .next t → i.family ≠ .subCmp → i.family ≠ .scan →
    t.flag .cf = s.flag .cf ∧ t.flag .zf = s.flag .zf ∧ t.flag .sf = s.flag .sf ∧
    t.flag .of = s.flag .of ∧ t.condZ = s.condZ ∧ t.condNz = s.condNz ∧ t.condL = s.condL

/-- A run ends with an exit code only by INT 21h with AH = 4Ch, the code being AL, and with
UNKNOWN_OPCODE only on bytes the decoder rejects so (10_state.md section 7). -/
def Obligations.RunsEndForTheStatedReasons : Prop :=
  ∀ s t : State, s.runState = .running → step s = .next t →
    (∀ code, t.runState = .halted (.exit code) →
      (∃ rest, decode (s.window maxLength) = .ok (.int 0x21) rest) ∧
      s.r8 .ah = 0x4C ∧ code = s.r8 .al) ∧
    (∀ op, t.runState = .halted (.unknownOpcode op) →
      ∃ modrm, decode (s.window maxLength) = .bad (.unknownOpcode op modrm))

/-- R29: where pc is after an instruction that does not halt on a condition. A taken jump, JMP and
CALL add the signed displacement to the index after the instruction, CALL having pushed that index;
RET takes pc from the top of the call stack; every other one leaves pc after its last byte. -/
def Obligations.PcAfterAnInstruction : Prop :=
  ∀ (i : Instr) (s t : State), s.runState = .running → exec i s = .next t →
    (t.runState = .running ∨ ∃ code, t.runState = .halted (.exit code)) →
    match i with
    | .jz rel => (t.pc : Int) = s.pc + 1 + if s.flag .zf then rel.toInt else 0
    | .jnz rel => (t.pc : Int) = s.pc + 1 + if s.flag .zf then 0 else rel.toInt
    | .jl rel => (t.pc : Int) = s.pc + 1 + if s.flag .sf = s.flag .of then 0 else rel.toInt
    | .jmp rel => (t.pc : Int) = s.pc + 1 + rel.toInt
    | .call rel => (t.pc : Int) = s.pc + 2 + rel.toInt ∧ t.callStack = s.callStack ++ [s.pc + 2]
    | .ret => s.callStack = t.callStack ++ [t.pc]
    | i => t.pc = s.pc + (i.length - 1)

/-- Faults are precise (60_exceptions.md R344, D33): a step that halts for any reason but EXIT
leaves every register, flag, byte of memory, the call stack, VideoMode and Cursor as they were, pc
just after the opcode byte (or on it, if its fetch failed), one diagnostic that reports the reason,
and the collaborator calls already made. -/
def Obligations.FaultsArePrecise : Prop :=
  ∀ (s t : State) (r : HaltReason), s.runState = .running → step s = .next t →
    t.runState = .halted r → (∀ code, r ≠ .exit code) →
    ∃ d es, Reports s.pc r d ∧
      t = { (if s.pc < s.cfg.memSize then s.fetched else s) with
            runState := .halted r, diag := s.diag ++ [d], io := s.io ++ es }

/-! ### Operands -/

/-- The resolver on instruction bytes and the decoder's operand agree: the same location, pc past
exactly its displacement bytes, and a fetch error exactly when the bytes run out (R130 to R135). -/
def Obligations.ResolverAgreesWithTheDecoder : Prop :=
  ∀ (ρ : Type) (name : BitVec 3 → ρ) (s : State) (modrm : Byte),
    (∀ rm rest, takeRM name modrm (s.window 2) = .ok rm rest →
      s.resolveRM name modrm true = .ok (s.loc rm, s.skip rm.dlen)) ∧
    (∀ e, takeRM name modrm (s.window 2) = .bad e →
      s.resolveRM name modrm true = .error (.fetchOutOfRange (max s.pc s.cfg.memSize)))

/-- A resolution without commit gives the same location or error and leaves the state, pc included,
as it found it, also when repeated; a store with an immediate taken without commit changes the image
as the committed one does and rolls back displacement and immediate bytes (R139). -/
def Obligations.UncommittedResolutionRollsBack : Prop :=
  (∀ (ρ : Type) (name : BitVec 3 → ρ) (s : State) (modrm : Byte),
    (∀ l u, s.resolveRM name modrm true = .ok (l, u) →
      s.resolveRM name modrm false = .ok (l, s)) ∧
    (∀ c, s.resolveRM name modrm true = .error c → s.resolveRM name modrm false = .error c)) ∧
  (∀ (s t : State) (op modrm : Byte), s.resolveStoreImm8 op modrm true = .ok t →
    s.resolveStoreImm8 op modrm false = .ok { t with pc := s.pc }) ∧
  (∀ (s t : State) (op modrm : Byte), s.resolveStoreImm16 op modrm true = .ok t →
    s.resolveStoreImm16 op modrm false = .ok { t with pc := s.pc })

/-- The image index of every memory operand: `L + 16*DS` plus base and displacement taken mod 2^16,
DS for every base (R132 to R134, 20_memory.md R66; D7, D8, D13). -/
def Obligations.OperandAddresses : Prop :=
  ∀ (s : State) (b : Base) (d8 : Byte) (d16 : Word),
    s.addr (.direct d16) = s.cfg.loadOffset + 16 * (s.seg .ds).toNat + d16.toNat ∧
    s.addr (.indirect b) = s.cfg.loadOffset + 16 * (s.seg .ds).toNat + s.baseSum b % 65536 ∧
    (s.addr (.indirect8 b d8) : Int) =
      s.cfg.loadOffset + 16 * (s.seg .ds).toNat + (s.baseSum b + d8.toInt) % 65536 ∧
    s.addr (.indirect16 b d16) =
      s.cfg.loadOffset + 16 * (s.seg .ds).toNat + (s.baseSum b + d16.toNat) % 65536

/-- A location in the image, or a register, reads back what was written to it, at both widths (R142,
derived there). -/
def Obligations.LocationsReadBackWhatWasWritten : Prop :=
  (∀ (s t : State) (l : Loc Reg8) (v : Byte), s.mem.wf → s.writeLoc8 l v = .ok t →
    t.readLoc8 l = .ok v) ∧
  (∀ (s t : State) (l : Loc Reg16) (v : Word), s.mem.wf → s.writeLoc16 l v = .ok t →
    t.readLoc16 l = .ok v)

/-- A word is stored low byte first, at any index with room for both bytes and at no other, and read
back the same way; other bytes are untouched (20_memory.md sections 2 and 4; D3, D4, D5). -/
def Obligations.WordsAreLittleEndian : Prop :=
  ∀ (s : State) (a : Nat) (v : Word), s.mem.wf →
    (a + 2 ≤ s.cfg.memSize →
      ∃ t, s.write16 a v = .ok t ∧ t.mem.wf ∧ t.read16 a = .ok v ∧
        (t.mem.read a).toNat = v.toNat % 256 ∧ (t.mem.read (a + 1)).toNat = v.toNat / 256 ∧
        ∀ k, k ≠ a → k ≠ a + 1 → t.mem.read k = s.mem.read k) ∧
    (s.cfg.memSize < a + 2 →
      s.write16 a v = .error (.memOutOfRange a 2) ∧ s.read16 a = .error (.memOutOfRange a 2))

/-- R23: a word register is `high*256 + low`; a byte write changes its half and keeps the other; a
word write changes both. -/
def Obligations.ByteHalvesAliasTheirWord : Prop :=
  ∀ (s : State) (v : Byte) (w : Word),
    ∀ p ∈ [(Reg16.ax, Reg8.ah, Reg8.al), (.cx, .ch, .cl), (.dx, .dh, .dl), (.bx, .bh, .bl)],
      (s.r16 p.1).toNat = (s.r8 p.2.1).toNat * 256 + (s.r8 p.2.2).toNat ∧
      ((s.setR8 p.2.1 v).r16 p.1).toNat = v.toNat * 256 + (s.r8 p.2.2).toNat ∧
      ((s.setR8 p.2.2 v).r16 p.1).toNat = (s.r8 p.2.1).toNat * 256 + v.toNat ∧
      ((s.setR16 p.1 w).r8 p.2.1).toNat = w.toNat / 256 ∧
      ((s.setR16 p.1 w).r8 p.2.2).toNat = w.toNat % 256

/-- An instruction whose memory operand is not wholly in the image halts with MEM_OUT_OF_RANGE and
does nothing else (20_memory.md section 2; D5, D33). -/
def Obligations.OperandOutsideTheImageHalts : Prop :=
  ∀ (i : Instr) (s : State) (m : MemOp) (n : Nat),
    i.memOperand = some (m, n) → s.cfg.memSize < s.addr m + n →
    exec i s = .next (s.haltedWith (.memOutOfRange (s.pc - 1) (s.addr m) n)
      (.memOutOfRange (s.pc - 1) (s.addr m) n))

/-! ### MOV -/

/-- 88, 89: with the destination in the image, the register's value is in the destination. -/
def Obligations.MovStoresTheRegister : Prop :=
  (∀ (dst : RM8) (src : Reg8) (s : State), s.mem.wf → s.fits 1 dst →
    ∃ t, exec (.movRm8R8 dst src) s = .next t ∧ t.readLoc8 (s.loc dst) = .ok (s.r8 src) ∧
      t.pc = s.pc + 1 + dst.dlen ∧ t.runState = s.runState) ∧
  (∀ (dst : RM16) (src : Reg16) (s : State), s.mem.wf → s.fits 2 dst →
    ∃ t, exec (.movRm16R16 dst src) s = .next t ∧ t.readLoc16 (s.loc dst) = .ok (s.r16 src) ∧
      t.pc = s.pc + 1 + dst.dlen ∧ t.runState = s.runState)

/-- 8A, 8B, A0, A1: with the source in the image, the register holds its value. -/
def Obligations.MovLoadsTheRegister : Prop :=
  (∀ (dst : Reg8) (src : RM8) (v : Byte) (s : State), s.readLoc8 (s.loc src) = .ok v →
    ∃ t, exec (.movR8Rm8 dst src) s = .next t ∧ t.r8 dst = v ∧
      t.pc = s.pc + 1 + src.dlen ∧ t.runState = s.runState) ∧
  (∀ (dst : Reg16) (src : RM16) (v : Word) (s : State), s.readLoc16 (s.loc src) = .ok v →
    ∃ t, exec (.movR16Rm16 dst src) s = .next t ∧ t.r16 dst = v ∧
      t.pc = s.pc + 1 + src.dlen ∧ t.runState = s.runState) ∧
  (∀ (off : Word) (s : State),
    s.cfg.loadOffset + 16 * (s.seg .ds).toNat + off.toNat + 1 ≤ s.cfg.memSize →
    ∃ t, exec (.movAlMoffs8 off) s = .next t ∧
      t.r8 .al = s.mem.read (s.cfg.loadOffset + 16 * (s.seg .ds).toNat + off.toNat) ∧
      t.r8 .ah = s.r8 .ah ∧ t.pc = s.pc + 2 ∧ t.runState = s.runState) ∧
  (∀ (off : Word) (s : State),
    s.cfg.loadOffset + 16 * (s.seg .ds).toNat + off.toNat + 2 ≤ s.cfg.memSize →
    ∃ t, exec (.movAxMoffs16 off) s = .next t ∧
      t.r8 .al = s.mem.read (s.cfg.loadOffset + 16 * (s.seg .ds).toNat + off.toNat) ∧
      t.r8 .ah = s.mem.read (s.cfg.loadOffset + 16 * (s.seg .ds).toNat + off.toNat + 1) ∧
      t.pc = s.pc + 2 ∧ t.runState = s.runState)

/-- B0+r, B8+r: the register holds the immediate, always. -/
def Obligations.MovImmediateToRegister : Prop :=
  (∀ (dst : Reg8) (imm : Byte) (s : State), ∃ t, exec (.movR8Imm8 dst imm) s = .next t ∧
    t.r8 dst = imm ∧ t.pc = s.pc + 1 ∧ t.runState = s.runState) ∧
  (∀ (dst : Reg16) (imm : Word) (s : State), ∃ t, exec (.movR16Imm16 dst imm) s = .next t ∧
    t.r16 dst = imm ∧ t.pc = s.pc + 2 ∧ t.runState = s.runState)

/-- C6, C7: the immediate is stored to a memory operand in the image; a register operand raises
UNSUPPORTED_OPERAND (D21, D22). -/
def Obligations.MovImmediateToMemoryOnly : Prop :=
  (∀ (m : MemOp) (imm : Byte) (s : State), s.mem.wf → s.addr m + 1 ≤ s.cfg.memSize →
    ∃ t, exec (.movRm8Imm8 (.mem m) imm) s = .next t ∧ t.mem.read (s.addr m) = imm ∧
      t.pc = s.pc + 2 + m.dlen ∧ t.runState = s.runState) ∧
  (∀ (m : MemOp) (imm : Word) (s : State), s.mem.wf → s.addr m + 2 ≤ s.cfg.memSize →
    ∃ t, exec (.movRm16Imm16 (.mem m) imm) s = .next t ∧
      (t.mem.read (s.addr m)).toNat = imm.toNat % 256 ∧
      (t.mem.read (s.addr m + 1)).toNat = imm.toNat / 256 ∧
      t.pc = s.pc + 3 + m.dlen ∧ t.runState = s.runState) ∧
  (∀ (r : Reg8) (imm : Byte) (s : State), exec (.movRm8Imm8 (.reg r) imm) s = .next
    (s.haltedWith (.unsupportedOperand (s.pc - 1) 0xC6 (packModrm 3 0 r.code))
      (.unsupportedOperand (s.pc - 1) 0xC6 (packModrm 3 0 r.code)))) ∧
  (∀ (r : Reg16) (imm : Word) (s : State), exec (.movRm16Imm16 (.reg r) imm) s = .next
    (s.haltedWith (.unsupportedOperand (s.pc - 1) 0xC7 (packModrm 3 0 r.code))
      (.unsupportedOperand (s.pc - 1) 0xC7 (packModrm 3 0 r.code))))

/-- 8E: fields 0 to 5 load ES, CS, SS, DS, FS, GS; 6 and 7 raise UNSUPPORTED_OPERAND (D24). -/
def Obligations.MovLoadsASegmentRegister : Prop :=
  (∀ (g : SReg) (src : RM16) (v : Word) (s : State), s.readLoc16 (s.loc src) = .ok v →
    ∃ t, exec (.movSregRm16 g.field src) s = .next t ∧ t.seg g = v ∧
      t.pc = s.pc + 1 + src.dlen ∧ t.runState = s.runState) ∧
  (∀ (f : BitVec 3) (src : RM16) (s : State), 5 < f.toNat →
    exec (.movSregRm16 f src) s = .next
      (s.haltedWith (.unsupportedOperand (s.pc - 1) 0x8E (src.modrm Reg16.code f))
        (.unsupportedOperand (s.pc - 1) 0x8E (src.modrm Reg16.code f))))

/-- A MOV that completes changes its destination and pc alone and adds no diagnostic; one that halts
changes nothing but the run state and the diagnostic channel, which reports the reason (R184 and the
MOV rules, R342, R344, R347; D33, D38). -/
def Obligations.MovChangesItsDestinationOnly : Prop :=
  ∀ (i : Instr) (s t : State), i.family = .mov → exec i s = .next t →
    CompletesOrHalts s t ∧ t.flags = s.flags ∧ t.callStack = s.callStack ∧ SameBackground s t ∧
    match i with
    | .movRm8R8 dst _ => OnlyByteOperandChanges dst s t ∧ t.segs = s.segs
    | .movRm16R16 dst _ => OnlyWordOperandChanges dst s t ∧ t.segs = s.segs
    | .movR8Rm8 dst _ => OnlyByteOperandChanges (.reg dst) s t ∧ t.segs = s.segs
    | .movR16Rm16 dst _ => OnlyWordOperandChanges (.reg dst) s t ∧ t.segs = s.segs
    | .movSregRm16 f _ =>
      NoOperandChanges s t ∧ ∀ g, SReg.ofField f ≠ some g → t.seg g = s.seg g
    | .movAlMoffs8 _ => OnlyByteOperandChanges (.reg .al) s t ∧ t.segs = s.segs
    | .movAxMoffs16 _ => OnlyWordOperandChanges (.reg .ax) s t ∧ t.segs = s.segs
    | .movR8Imm8 dst _ => OnlyByteOperandChanges (.reg dst) s t ∧ t.segs = s.segs
    | .movR16Imm16 dst _ => OnlyWordOperandChanges (.reg dst) s t ∧ t.segs = s.segs
    | .movRm8Imm8 dst _ => OnlyByteOperandChanges dst s t ∧ t.segs = s.segs
    | .movRm16Imm16 dst _ => OnlyWordOperandChanges dst s t ∧ t.segs = s.segs
    | _ => True

/-! ### SUB, CMP, AND, SHR -/

/-- 2A, 2B: the difference mod 2^w is in the register, the flags are those of the subtraction
(R160, R210, R211; D15 to D18). -/
def Obligations.SubRegisterForms : Prop :=
  (∀ (dst : Reg8) (src : RM8) (b : Byte) (s : State), s.readLoc8 (s.loc src) = .ok b →
    ∃ t, exec (.subR8Rm8 dst src) s = .next t ∧
      (t.r8 dst).toNat = wrapSub 8 (s.r8 dst).toNat b.toNat ∧
      FlagsOfSub s.cfg.ofReading 8 (s.r8 dst).toNat b.toNat t ∧
      t.pc = s.pc + 1 + src.dlen ∧ t.runState = s.runState) ∧
  (∀ (dst : Reg16) (src : RM16) (b : Word) (s : State), s.readLoc16 (s.loc src) = .ok b →
    ∃ t, exec (.subR16Rm16 dst src) s = .next t ∧
      (t.r16 dst).toNat = wrapSub 16 (s.r16 dst).toNat b.toNat ∧
      FlagsOfSub s.cfg.ofReading 16 (s.r16 dst).toNat b.toNat t ∧
      t.pc = s.pc + 1 + src.dlen ∧ t.runState = s.runState)

/-- 83 /5: the sign-extended immediate is subtracted from the operand in place (R214; D15 to D18,
D20). -/
def Obligations.SubImmediateForm : Prop :=
  ∀ (dst : RM16) (imm : Byte) (a : Word) (s : State), s.mem.wf → s.readLoc16 (s.loc dst) = .ok a →
    ∃ t r, exec (.subRm16Imm8 dst imm) s = .next t ∧ t.readLoc16 (s.loc dst) = .ok r ∧
      r.toNat = wrapSub 16 a.toNat ((imm.toInt % 65536).toNat) ∧
      FlagsOfSub s.cfg.ofReading 16 a.toNat ((imm.toInt % 65536).toNat) t ∧
      t.pc = s.pc + 2 + dst.dlen ∧ t.runState = s.runState

/-- 3A, 3B, 83 /7, 80 /7: the flags are those of the subtraction; CMP never stores (R212, R213,
R215, R216; D15 to D18, D20). -/
def Obligations.CompareForms : Prop :=
  (∀ (lhs : Reg8) (rhs : RM8) (b : Byte) (s : State), s.readLoc8 (s.loc rhs) = .ok b →
    ∃ t, exec (.cmpR8Rm8 lhs rhs) s = .next t ∧
      FlagsOfSub s.cfg.ofReading 8 (s.r8 lhs).toNat b.toNat t ∧
      t.regs = s.regs ∧ t.mem = s.mem ∧ t.pc = s.pc + 1 + rhs.dlen ∧ t.runState = s.runState) ∧
  (∀ (lhs : Reg16) (rhs : RM16) (b : Word) (s : State), s.readLoc16 (s.loc rhs) = .ok b →
    ∃ t, exec (.cmpR16Rm16 lhs rhs) s = .next t ∧
      FlagsOfSub s.cfg.ofReading 16 (s.r16 lhs).toNat b.toNat t ∧
      t.regs = s.regs ∧ t.mem = s.mem ∧ t.pc = s.pc + 1 + rhs.dlen ∧ t.runState = s.runState) ∧
  (∀ (lhs : RM16) (imm : Byte) (a : Word) (s : State), s.readLoc16 (s.loc lhs) = .ok a →
    ∃ t, exec (.cmpRm16Imm8 lhs imm) s = .next t ∧
      FlagsOfSub s.cfg.ofReading 16 a.toNat ((imm.toInt % 65536).toNat) t ∧
      t.regs = s.regs ∧ t.mem = s.mem ∧ t.pc = s.pc + 2 + lhs.dlen ∧ t.runState = s.runState) ∧
  (∀ (lhs : RM8) (imm a : Byte) (s : State), s.readLoc8 (s.loc lhs) = .ok a →
    ∃ t, exec (.cmpRm8Imm8 lhs imm) s = .next t ∧
      FlagsOfSub s.cfg.ofReading 8 a.toNat imm.toNat t ∧
      t.regs = s.regs ∧ t.mem = s.mem ∧ t.pc = s.pc + 2 + lhs.dlen ∧ t.runState = s.runState)

/-- The flag function in general, at any width: its formulas, the two readings of OF (D16), what JL
then tests under each (R168), and that no tag but subtraction has a meaning (R166). -/
def Obligations.FlagFunctionAndJl : Prop :=
  ∀ (s : State) (w : Nat) (a b : BitVec w), 0 < w →
    (∃ t, s.subFlags a b = .ok t ∧ FlagsOfSub s.cfg.ofReading w a.toNat b.toNat t ∧
      (s.cfg.ofReading = .wrap →
        (t.flag .of = decide (a.toNat < b.toNat)) ∧
        (t.condL = true ↔ (2 ^ (w - 1) ≤ wrapSub w a.toNat b.toNat ↔ ¬ a.toNat < b.toNat))) ∧
      (s.cfg.ofReading = .intPromote →
        t.flag .of = false ∧ t.condL = t.flag .sf) ∧
      t.flag .pf = false ∧ t.flag .af = false ∧ t.flag .ifl = false ∧ t.flag .df = false) ∧
    ∀ n, flagFunction (.other n) s.cfg.ofReading a b = .error (.unsupportedFlagOp (.other n))

/-- 80 /4, 81 /4, 83 /4: the operand becomes its AND with the immediate, sign-extended for 83, and
no flag is written (R217 to R219; D20). -/
def Obligations.AndForms : Prop :=
  (∀ (dst : RM8) (imm v : Byte) (s : State), s.mem.wf → s.readLoc8 (s.loc dst) = .ok v →
    ∃ t, exec (.andRm8Imm8 dst imm) s = .next t ∧ t.readLoc8 (s.loc dst) = .ok (v &&& imm) ∧
      t.flags = s.flags ∧ t.pc = s.pc + 2 + dst.dlen ∧ t.runState = s.runState) ∧
  (∀ (dst : RM16) (imm v : Word) (s : State), s.mem.wf → s.readLoc16 (s.loc dst) = .ok v →
    ∃ t, exec (.andRm16Imm16 dst imm) s = .next t ∧ t.readLoc16 (s.loc dst) = .ok (v &&& imm) ∧
      t.flags = s.flags ∧ t.pc = s.pc + 3 + dst.dlen ∧ t.runState = s.runState) ∧
  (∀ (dst : RM16) (imm : Byte) (v : Word) (s : State), s.mem.wf →
    s.readLoc16 (s.loc dst) = .ok v →
    ∃ t, exec (.andRm16Imm8 dst imm) s = .next t ∧
      t.readLoc16 (s.loc dst) = .ok (v &&& BitVec.ofInt 16 imm.toInt) ∧
      t.flags = s.flags ∧ t.pc = s.pc + 2 + dst.dlen ∧ t.runState = s.runState)

/-- D0 /5, D1 /5: the operand is halved, rounding down, and no flag is written (R220, R221). -/
def Obligations.ShrForms : Prop :=
  (∀ (dst : RM8) (v : Byte) (s : State), s.mem.wf → s.readLoc8 (s.loc dst) = .ok v →
    ∃ t r, exec (.shrRm8 dst) s = .next t ∧ t.readLoc8 (s.loc dst) = .ok r ∧
      r.toNat = v.toNat / 2 ∧ t.flags = s.flags ∧ t.pc = s.pc + 1 + dst.dlen ∧
      t.runState = s.runState) ∧
  (∀ (dst : RM16) (v : Word) (s : State), s.mem.wf → s.readLoc16 (s.loc dst) = .ok v →
    ∃ t r, exec (.shrRm16 dst) s = .next t ∧ t.readLoc16 (s.loc dst) = .ok r ∧
      r.toNat = v.toNat / 2 ∧ t.flags = s.flags ∧ t.pc = s.pc + 1 + dst.dlen ∧
      t.runState = s.runState)

/-- What SUB, CMP, AND and SHR change when they complete: SUB its destination, the four flags and pc;
CMP the four flags and pc; AND and SHR their destination and pc; no diagnostic is added. One that
halts changes nothing but the run state and the diagnostic channel, which reports the reason (D33,
D38). -/
def Obligations.ArithmeticChangesItsDestinationOnly : Prop :=
  ∀ (i : Instr) (s t : State), i.family = .subCmp ∨ i.family = .andShr → exec i s = .next t →
    CompletesOrHalts s t ∧ t.segs = s.segs ∧ t.callStack = s.callStack ∧ SameBackground s t ∧
    (i.family = .andShr → t.flags = s.flags) ∧
    match i with
    | .subR8Rm8 dst _ => OnlyByteOperandChanges (.reg dst) s t
    | .subR16Rm16 dst _ => OnlyWordOperandChanges (.reg dst) s t
    | .subRm16Imm8 dst _ => OnlyWordOperandChanges dst s t
    | .cmpR8Rm8 _ _ => NoOperandChanges s t
    | .cmpR16Rm16 _ _ => NoOperandChanges s t
    | .cmpRm16Imm8 _ _ => NoOperandChanges s t
    | .cmpRm8Imm8 _ _ => NoOperandChanges s t
    | .andRm8Imm8 dst _ => OnlyByteOperandChanges dst s t
    | .andRm16Imm16 dst _ => OnlyWordOperandChanges dst s t
    | .andRm16Imm8 dst _ => OnlyWordOperandChanges dst s t
    | .shrRm8 dst => OnlyByteOperandChanges dst s t
    | .shrRm16 dst => OnlyWordOperandChanges dst s t
    | _ => True

/-! ### PUSH and POP -/

/-- 50+r, 58+r at SS:SP: PUSH stores the register as it was before SP went down by 2; POP loads the
word at the top after SP went up by 2, so POP SP ends with the popped word. Outside the image both
halt (R240, R241, R243, R244; D9, D10). -/
def Obligations.PushAndPop : Prop :=
  (∀ (r : Reg16) (s : State) (a : Nat),
    a = s.cfg.loadOffset + 16 * (s.seg .ss).toNat + ((s.r16 .sp).toNat + 65534) % 65536 →
    (s.mem.wf → a + 2 ≤ s.cfg.memSize → ∃ t, exec (.pushR16 r) s = .next t ∧
      (t.r16 .sp).toNat = ((s.r16 .sp).toNat + 65534) % 65536 ∧
      (t.mem.read a).toNat = (s.r16 r).toNat % 256 ∧
      (t.mem.read (a + 1)).toNat = (s.r16 r).toNat / 256 ∧
      t.pc = s.pc ∧ t.runState = s.runState) ∧
    (s.cfg.memSize < a + 2 → exec (.pushR16 r) s = .next
      (s.haltedWith (.memOutOfRange (s.pc - 1) a 2) (.memOutOfRange (s.pc - 1) a 2)))) ∧
  (∀ (r : Reg16) (s : State) (a : Nat),
    a = s.cfg.loadOffset + 16 * (s.seg .ss).toNat + (s.r16 .sp).toNat →
    (a + 2 ≤ s.cfg.memSize → ∃ t, exec (.popR16 r) s = .next t ∧
      (t.r16 r).toNat = (s.mem.read (a + 1)).toNat * 256 + (s.mem.read a).toNat ∧
      (r ≠ .sp → (t.r16 .sp).toNat = ((s.r16 .sp).toNat + 2) % 65536) ∧
      t.pc = s.pc ∧ t.runState = s.runState) ∧
    (s.cfg.memSize < a + 2 → exec (.popR16 r) s = .next
      (s.haltedWith (.memOutOfRange (s.pc - 1) a 2) (.memOutOfRange (s.pc - 1) a 2))))

/-- PUSH then POP of the same register, SP included, restores every register, whatever the pc the
POP runs at; the call stack is not involved (R242, derived there; D10). -/
def Obligations.PushThenPopRestoresTheRegisters : Prop :=
  ∀ (r : Reg16) (s : State) (n : Nat), s.mem.wf →
    s.cfg.loadOffset + 16 * (s.seg .ss).toNat + ((s.r16 .sp).toNat + 65534) % 65536 + 2
      ≤ s.cfg.memSize →
    ∃ t u, exec (.pushR16 r) s = .next t ∧ exec (.popR16 r) { t with pc := n } = .next u ∧
      u.regs = s.regs ∧ u.callStack = s.callStack ∧ u.runState = s.runState

/-- The byte push and pop no instruction of the table uses (R245, R246; D10). -/
def Obligations.ByteStackPrimitives : Prop :=
  ∀ (s : State) (v : Byte),
    (∀ a, a = s.cfg.loadOffset + 16 * (s.seg .ss).toNat + ((s.r16 .sp).toNat + 65535) % 65536 →
      s.mem.wf → a + 1 ≤ s.cfg.memSize → ∃ t u, s.push8 v = .ok t ∧ t.mem.read a = v ∧
        (t.r16 .sp).toNat = ((s.r16 .sp).toNat + 65535) % 65536 ∧
        t.pop8 = .ok (v, u) ∧ u.regs = s.regs) ∧
    (∀ a, a = s.cfg.loadOffset + 16 * (s.seg .ss).toNat + (s.r16 .sp).toNat →
      a + 1 ≤ s.cfg.memSize → ∃ u, s.pop8 = .ok (s.mem.read a, u) ∧ u.mem = s.mem ∧
        (u.r16 .sp).toNat = ((s.r16 .sp).toNat + 1) % 65536)

/-- Completing, PUSH changes SP and its two bytes at SS:(SP - 2), POP changes SP and its register; pc
apart, nothing else, and no diagnostic is added. One that halts changes nothing but the run state and
the diagnostic channel, which reports the reason (D9, D10, D33, D38). -/
def Obligations.StackInstructionsChangeSpAndTheirOperandOnly : Prop :=
  ∀ (s t : State) (r : Reg16),
    (exec (.pushR16 r) s = .next t →
      CompletesOrHalts s t ∧ t.flags = s.flags ∧ t.segs = s.segs ∧ t.callStack = s.callStack ∧ SameBackground s t ∧
      (∀ q, q ≠ .sp → t.r16 q = s.r16 q) ∧
      ∀ a, ¬ (s.lin .ss (s.r16 .sp - 2).toNat ≤ a ∧ a < s.lin .ss (s.r16 .sp - 2).toNat + 2) →
        t.mem.read a = s.mem.read a) ∧
    (exec (.popR16 r) s = .next t →
      CompletesOrHalts s t ∧ t.flags = s.flags ∧ t.segs = s.segs ∧ t.callStack = s.callStack ∧ SameBackground s t ∧
      (∀ q, q ≠ .sp → q ≠ r → t.r16 q = s.r16 q) ∧ ∀ a, t.mem.read a = s.mem.read a)

/-! ### Control transfer -/

/-- 74, 75, 7C, EB: taken on ZF, not ZF, SF ≠ OF, always; the target is relative to the index after
the displacement, and a taken jump below index 0 halts (R260 to R263, R266; D12). -/
def Obligations.ShortJumps : Prop :=
  ∀ (rel : Byte) (s : State) (i : Instr) (taken : Bool),
    (i, taken) ∈ [(Instr.jz rel, s.flag .zf), (.jnz rel, !s.flag .zf),
      (.jl rel, s.flag .sf != s.flag .of), (.jmp rel, true)] →
    (taken = false → exec i s = .next { s with pc := s.pc + 1 }) ∧
    (taken = true → 0 ≤ (s.pc : Int) + 1 + rel.toInt →
      exec i s = .next { s with pc := ((s.pc : Int) + 1 + rel.toInt).toNat }) ∧
    (taken = true → (s.pc : Int) + 1 + rel.toInt < 0 →
      exec i s = .next
        (s.haltedWith (.branchOutOfRange (s.pc - 1) ((s.pc : Int) + 1 + rel.toInt))
          (.branchOutOfRange (s.pc - 1) ((s.pc : Int) + 1 + rel.toInt))))

/-- E8: the index after the instruction goes on the auxiliary call stack and pc to the target; a full
stack halts before the target is looked at, a target below 0 halts (R264, R266; D12, D26). -/
def Obligations.CallPushesTheReturnIndex : Prop :=
  ∀ (rel : Word) (s : State),
    (s.callStack.length ≠ 256 → 0 ≤ (s.pc : Int) + 2 + rel.toInt →
      exec (.call rel) s = .next { s with
        pc := ((s.pc : Int) + 2 + rel.toInt).toNat, callStack := s.callStack ++ [s.pc + 2] }) ∧
    (s.callStack.length ≠ 256 → (s.pc : Int) + 2 + rel.toInt < 0 →
      exec (.call rel) s = .next
        (s.haltedWith (.branchOutOfRange (s.pc - 1) ((s.pc : Int) + 2 + rel.toInt))
          (.branchOutOfRange (s.pc - 1) ((s.pc : Int) + 2 + rel.toInt)))) ∧
    (s.callStack.length = 256 →
      exec (.call rel) s = .next (s.haltedWith (.callStackOverflow (s.pc - 1) (s.pc + 2))
        (.callStackOverflow (s.pc - 1) (s.pc + 2))))

/-- C3: pc is the top of the auxiliary call stack, which is popped; an empty stack halts (R265,
D26). -/
def Obligations.RetPopsTheReturnIndex : Prop :=
  ∀ s : State,
    (∀ rest top, s.callStack = rest ++ [top] →
      exec .ret s = .next { s with pc := top, callStack := rest }) ∧
    (s.callStack = [] →
      exec .ret s = .next (s.haltedWith (.callStackUnderflow (s.pc - 1))
        (.callStackUnderflow (s.pc - 1))))

/-- A RET in any state whose call stack is the one a CALL left goes to the instruction after the
CALL, with the call stack as it was before it (R268, derived there). `s.pc + 2` is `start + 3`. -/
def Obligations.ReturnFollowsItsCall : Prop :=
  ∀ (rel : Word) (s t u : State), s.runState = .running → exec (.call rel) s = .next t →
    t.runState = .running → u.callStack = t.callStack →
    ∃ v, exec .ret u = .next v ∧ v.pc = s.pc + 2 ∧ v.callStack = s.callStack ∧ v.mem = u.mem ∧
      v.regs = u.regs

/-- Jumps, CALL and RET that complete change pc alone, CALL and RET the auxiliary call stack too: no
register, flag or byte of the image, and no diagnostic is added. One that halts changes nothing but
the run state and the diagnostic channel, which reports the reason (R267, R386, C7; D33, D38). -/
def Obligations.TransfersChangePcAndTheCallStackOnly : Prop :=
  ∀ (i : Instr) (s t : State), i.family = .control → exec i s = .next t →
    CompletesOrHalts s t ∧ (∀ r, t.r16 r = s.r16 r) ∧ t.flags = s.flags ∧ t.segs = s.segs ∧ SameBackground s t ∧
    (∀ a, t.mem.read a = s.mem.read a) ∧
    ((∀ rel, i ≠ .call rel) → i ≠ .ret → t.callStack = s.callStack)

/-! ### String scan -/

/-- AE, F2 AE: the scan from ES:DI ends at the first byte equal to AL or `$`; ZF tells a match, DI is
one past that byte mod 2^16, whatever CX is (R290, R291; D25). -/
def Obligations.ScanEndsAtMatchOrSentinel : Prop :=
  ∀ (i : Instr) (n : Nat) (s : State) (a e : Nat), (i, n) ∈ [(Instr.scasb, 0), (.repneScasb, 1)] →
    a = s.cfg.loadOffset + 16 * (s.seg .es).toNat + (s.r16 .di).toNat →
    a ≤ e → e < s.cfg.memSize →
    (∀ k, a ≤ k → k < e → s.mem.read k ≠ s.r8 .al ∧ s.mem.read k ≠ 0x24) →
    (s.mem.read e = s.r8 .al ∨ s.mem.read e = 0x24) →
    ∃ t, exec i s = .next t ∧ (t.flag .zf = true ↔ s.mem.read e = s.r8 .al) ∧
      (t.r16 .di).toNat = ((s.r16 .di).toNat + (e - a) + 1) % 65536 ∧
      t.pc = s.pc + n ∧ t.runState = s.runState

/-- AE, F2 AE with neither AL nor `$` from ES:DI to the image end: MEM_OUT_OF_RANGE at the first
index outside (log entry 15), DI and ZF unchanged (R290, R292; D25, D33). -/
def Obligations.ScanPastTheImageHalts : Prop :=
  ∀ (i : Instr) (s : State) (a : Nat), i = .scasb ∨ i = .repneScasb →
    a = s.cfg.loadOffset + 16 * (s.seg .es).toNat + (s.r16 .di).toNat →
    (∀ k, a ≤ k → k < s.cfg.memSize → s.mem.read k ≠ s.r8 .al ∧ s.mem.read k ≠ 0x24) →
    exec i s = .next (s.haltedWith (.memOutOfRange (s.pc - 1) (max a s.cfg.memSize) 1)
      (.memOutOfRange (s.pc - 1) (max a s.cfg.memSize) 1))

/-- A scan that completes changes DI, ZF and pc alone and adds no diagnostic; one that halts changes
nothing but the run state and the diagnostic channel, which reports the reason (R290; D25, D33,
D38). -/
def Obligations.ScanChangesDiAndZfOnly : Prop :=
  ∀ (i : Instr) (s t : State), i.family = .scan → exec i s = .next t →
    CompletesOrHalts s t ∧ (∀ r, r ≠ .di → t.r16 r = s.r16 r) ∧ t.flag .cf = s.flag .cf ∧ t.flag .sf = s.flag .sf ∧
    t.flag .of = s.flag .of ∧ t.segs = s.segs ∧ t.callStack = s.callStack ∧ SameBackground s t ∧
    ∀ a, t.mem.read a = s.mem.read a

/-! ### INT -/

/-- INT 10h: AH = 00h activates the surface for the one mode in AL and does nothing for another, 02h
sets the cursor from DH, DL, BH, 0Bh forwards BL (R305 to R307; D28, D29, D42). -/
def Obligations.VideoServices : Prop :=
  ∀ s : State,
    (s.r8 .ah = 0x00 → s.r8 .al = s.cfg.videoSurfaceMode →
      exec (.int 0x10) s = .next { s with
        pc := s.pc + 1, videoMode := true, io := s.io ++ [.activateVideoSurface] }) ∧
    (s.r8 .ah = 0x00 → s.r8 .al ≠ s.cfg.videoSurfaceMode →
      exec (.int 0x10) s = .next { s with pc := s.pc + 1 }) ∧
    (s.r8 .ah = 0x02 →
      exec (.int 0x10) s = .next { s with
        pc := s.pc + 1, cursor := { row := s.r8 .dh, col := s.r8 .dl, page := s.r8 .bh } }) ∧
    (s.r8 .ah = 0x0B →
      exec (.int 0x10) s = .next { s with
        pc := s.pc + 1, io := s.io ++ [.setBackgroundColor (s.r8 .bl)] })

/-- INT 16h AH = 00h and INT 21h AH = DOS_READ_NOECHO_AH: the byte the collaborator supplies goes to
AL and AH is kept; while it supplies none the core is blocked, pc already past the instruction
(R308, R310, R361; D28, D30, D44). A DOS_READ_NOECHO_AH that is the sub-code of another service is
left aside, since no rule says which of the two runs (log entry 10). That INT makes one poll and that
a read enters the record of calls when it is answered are the model's choices (log entries 3 and
14). -/
def Obligations.BlockingReads : Prop :=
  ∀ (n : Byte) (s : State),
    (n = 0x16 ∧ s.r8 .ah = 0x00) ∨
      (n = 0x21 ∧ s.r8 .ah = s.cfg.dosReadNoEchoAh ∧
        s.r8 .ah ∉ ([0x02, 0x09, 0x2C, 0x4C] : List Byte)) →
    (∀ b, s.nextKey = some b → ∃ t, exec (.int n) s = .next t ∧ t.r8 .al = b ∧
      t.r8 .ah = s.r8 .ah ∧ t.io = s.io ++ [.readCharacter true b] ∧ t.blocked = false ∧
      t.pc = s.pc + 1 ∧ t.runState = s.runState ∧ (∀ r, r ≠ .ax → t.r16 r = s.r16 r)) ∧
    (s.nextKey = none → ∃ t, exec (.int n) s = .next t ∧ t.regs = s.regs ∧ t.io = s.io ∧
      t.blocked = true ∧ t.pc = s.pc + 1 ∧ t.runState = s.runState)

/-- R309: INT 21h AH = 02h: the character in DL goes to the collaborator and into AL. If
`DOS_READ_NOECHO_AH` were 02h too, no rule says which service runs (log entry 10). -/
def Obligations.WriteCharacterService : Prop :=
  ∀ s : State, s.r8 .ah = 0x02 → s.cfg.dosReadNoEchoAh ≠ 0x02 →
    ∃ t, exec (.int 0x21) s = .next t ∧ t.io = s.io ++ [.writeCharacter (s.r8 .dl)] ∧
      t.r8 .al = s.r8 .dl ∧ t.r8 .ah = s.r8 .ah ∧ t.pc = s.pc + 1 ∧ t.runState = s.runState ∧
      ∀ r, r ≠ .ax → t.r16 r = s.r16 r

/-- INT 21h AH = 09h: the bytes from DS:DX to the first `$` go out one by one in text mode and as one
batch with the cursor in video mode; without a `$` before the image end the run halts, the bytes of
text mode already sent (R311, R312, R344; D31, D33; the index reported: log entry 15). -/
def Obligations.WriteStringService : Prop :=
  ∀ (s : State) (a : Nat) (text : List Byte),
    s.r8 .ah = 0x09 → s.cfg.dosReadNoEchoAh ≠ 0x09 →
    a = s.cfg.loadOffset + 16 * (s.seg .ds).toNat + (s.r16 .dx).toNat →
    (∀ b ∈ text, b ≠ 0x24) → (∀ k b, text[k]? = some b → s.mem.read (a + k) = b) →
    (a + text.length < s.cfg.memSize → s.mem.read (a + text.length) = 0x24 →
      exec (.int 0x21) s = .next { s with
        pc := s.pc + 1,
        io := s.io ++ (if s.videoMode then [.writeBatch text s.cursor.col s.cursor.row]
          else text.map IoEvent.writeCharacter) }) ∧
    (text.length = s.cfg.memSize - a →
      exec (.int 0x21) s = .next
        ({ s with io := s.io ++ if s.videoMode then [] else text.map IoEvent.writeCharacter }.haltedWith
          (.memOutOfRange (s.pc - 1) (max a s.cfg.memSize) 1)
          (.memOutOfRange (s.pc - 1) (max a s.cfg.memSize) 1)))

/-- INT 21h AH = 2Ch: hour, minute, second and hundredth of the host clock, within their ranges, go
to CH, CL, DH, DL (R313, R314; D28, D32). -/
def Obligations.GetTimeService : Prop :=
  ∀ s : State, s.r8 .ah = 0x2C → s.cfg.dosReadNoEchoAh ≠ 0x2C →
    ∃ t, exec (.int 0x21) s = .next t ∧
      (t.r8 .ch).toNat = s.nextClock.hour ∧ (t.r8 .cl).toNat = s.nextClock.minute ∧
      (t.r8 .dh).toNat = s.nextClock.second ∧ (t.r8 .dl).toNat = s.nextClock.hundredth ∧
      (t.r8 .ch).toNat ≤ 23 ∧ (t.r8 .cl).toNat ≤ 59 ∧ (t.r8 .dh).toNat ≤ 59 ∧
      (t.r8 .dl).toNat ≤ 99 ∧ t.pc = s.pc + 1 ∧ t.runState = s.runState ∧ t.io = s.io ∧
      ∀ r, r ≠ .cx → r ≠ .dx → t.r16 r = s.r16 r

/-- INT 21h AH = 4Ch: the run ends with the code in AL, pc after the instruction (R315; D28, D39). -/
def Obligations.ExitService : Prop :=
  ∀ s : State, s.r8 .ah = 0x4C → s.cfg.dosReadNoEchoAh ≠ 0x4C →
    exec (.int 0x21) s =
      .next { s with pc := s.pc + 1, runState := .halted (.exit (s.r8 .al)) }

/-- R303: a vector and sub-code outside the service table is diagnosed, and nothing else happens. -/
def Obligations.UnsupportedInterruptIsOnlyDiagnosed : Prop :=
  ∀ (n : Byte) (s : State),
    (n.toNat, (s.r8 .ah).toNat) ∉ [(0x10, 0x00), (0x10, 0x02), (0x10, 0x0B), (0x16, 0x00),
      (0x21, 0x02), (0x21, s.cfg.dosReadNoEchoAh.toNat), (0x21, 0x09), (0x21, 0x2C),
      (0x21, 0x4C)] →
    exec (.int n) s = .next { s with
      pc := s.pc + 1, diag := s.diag ++ [.unsupportedInterrupt n (s.r8 .ah)] }

/-- INT changes no flag, segment register, SP, call-stack entry or byte of the image, and of the
general registers only AL, CX and DX. The cursor, VideoMode, the wait for a byte and the run state are
changed only by the services whose rules name them, and no service but the string write adds a
diagnostic (R300, R304, R342; D27, D28). -/
def Obligations.IntLeavesStacksFlagsAndMemoryAlone : Prop :=
  ∀ (n : Byte) (s t : State), exec (.int n) s = .next t →
    t.flags = s.flags ∧ t.segs = s.segs ∧ t.callStack = s.callStack ∧
    (∀ a, t.mem.read a = s.mem.read a) ∧ t.curOpcode = s.curOpcode ∧
    t.instrCount = s.instrCount ∧ t.cfg = s.cfg ∧ t.r8 .ah = s.r8 .ah ∧
    (∀ r, r ≠ .ax → r ≠ .cx → r ≠ .dx → t.r16 r = s.r16 r) ∧
    ((n, s.r8 .ah) ≠ (0x21, 0x2C) → t.r16 .cx = s.r16 .cx ∧ t.r16 .dx = s.r16 .dx) ∧
    ((n, s.r8 .ah) ≠ (0x10, 0x02) → t.cursor = s.cursor) ∧
    ((n, s.r8 .ah) ≠ (0x10, 0x00) → t.videoMode = s.videoMode) ∧
    ((n, s.r8 .ah) ≠ (0x16, 0x00) → (n, s.r8 .ah) ≠ (0x21, s.cfg.dosReadNoEchoAh) →
      t.blocked = s.blocked ∧ t.keys = s.keys) ∧
    ((n, s.r8 .ah) ≠ (0x21, 0x4C) → (n, s.r8 .ah) ≠ (0x21, 0x09) → t.runState = s.runState) ∧
    ((n, s.r8 .ah) ∈ [(0x10, 0x00), (0x10, 0x02), (0x10, 0x0B), (0x16, 0x00), (0x21, 0x02),
        (0x21, s.cfg.dosReadNoEchoAh), (0x21, 0x2C), (0x21, 0x4C)] →
      (n, s.r8 .ah) ≠ (0x21, 0x09) → t.diag = s.diag)
end

