-- ==== Sys2Proof/Laws/State.lean ====
section
/-! SUPPORT. What each update of State does to each field, and to what is read through fields: all
true by unfolding, so that no later proof unfolds a record update. -/

namespace Sys2Proof.Machine

variable (s : State)

/-! ### setR16 -/

@[simp] theorem State.setR16_regs (r : Reg16) (v : Word) : (s.setR16 r v).regs = s.regs.set r v := rfl
@[simp] theorem State.setR16_segs (r : Reg16) (v : Word) : (s.setR16 r v).segs = s.segs := rfl
@[simp] theorem State.setR16_pc (r : Reg16) (v : Word) : (s.setR16 r v).pc = s.pc := rfl
@[simp] theorem State.setR16_flags (r : Reg16) (v : Word) : (s.setR16 r v).flags = s.flags := rfl
@[simp] theorem State.setR16_callStack (r : Reg16) (v : Word) : (s.setR16 r v).callStack = s.callStack := rfl
@[simp] theorem State.setR16_mem (r : Reg16) (v : Word) : (s.setR16 r v).mem = s.mem := rfl
@[simp] theorem State.setR16_videoMode (r : Reg16) (v : Word) : (s.setR16 r v).videoMode = s.videoMode := rfl
@[simp] theorem State.setR16_cursor (r : Reg16) (v : Word) : (s.setR16 r v).cursor = s.cursor := rfl
@[simp] theorem State.setR16_runState (r : Reg16) (v : Word) : (s.setR16 r v).runState = s.runState := rfl
@[simp] theorem State.setR16_blocked (r : Reg16) (v : Word) : (s.setR16 r v).blocked = s.blocked := rfl
@[simp] theorem State.setR16_curOpcode (r : Reg16) (v : Word) : (s.setR16 r v).curOpcode = s.curOpcode := rfl
@[simp] theorem State.setR16_instrCount (r : Reg16) (v : Word) : (s.setR16 r v).instrCount = s.instrCount := rfl
@[simp] theorem State.setR16_diag (r : Reg16) (v : Word) : (s.setR16 r v).diag = s.diag := rfl
@[simp] theorem State.setR16_io (r : Reg16) (v : Word) : (s.setR16 r v).io = s.io := rfl
@[simp] theorem State.setR16_cfg (r : Reg16) (v : Word) : (s.setR16 r v).cfg = s.cfg := rfl
@[simp] theorem State.setR16_keys (r : Reg16) (v : Word) : (s.setR16 r v).keys = s.keys := rfl
@[simp] theorem State.setR16_clocks (r : Reg16) (v : Word) : (s.setR16 r v).clocks = s.clocks := rfl
@[simp] theorem State.setR16_draws (r : Reg16) (v : Word) : (s.setR16 r v).draws = s.draws := rfl
@[simp] theorem State.setR16_seg (r : Reg16) (v : Word) (g' : SReg) : (s.setR16 r v).seg g' = s.seg g' := rfl
@[simp] theorem State.setR16_lin (r : Reg16) (v : Word) (g' : SReg) (off : Nat) : (s.setR16 r v).lin g' off = s.lin g' off := rfl
@[simp] theorem State.setR16_flag (r : Reg16) (v : Word) (x : FlagName) : (s.setR16 r v).flag x = s.flag x := rfl

/-! ### setR8 -/

@[simp] theorem State.setR8_segs (h : Reg8) (v : Byte) : (s.setR8 h v).segs = s.segs := rfl
@[simp] theorem State.setR8_pc (h : Reg8) (v : Byte) : (s.setR8 h v).pc = s.pc := rfl
@[simp] theorem State.setR8_flags (h : Reg8) (v : Byte) : (s.setR8 h v).flags = s.flags := rfl
@[simp] theorem State.setR8_callStack (h : Reg8) (v : Byte) : (s.setR8 h v).callStack = s.callStack := rfl
@[simp] theorem State.setR8_mem (h : Reg8) (v : Byte) : (s.setR8 h v).mem = s.mem := rfl
@[simp] theorem State.setR8_videoMode (h : Reg8) (v : Byte) : (s.setR8 h v).videoMode = s.videoMode := rfl
@[simp] theorem State.setR8_cursor (h : Reg8) (v : Byte) : (s.setR8 h v).cursor = s.cursor := rfl
@[simp] theorem State.setR8_runState (h : Reg8) (v : Byte) : (s.setR8 h v).runState = s.runState := rfl
@[simp] theorem State.setR8_blocked (h : Reg8) (v : Byte) : (s.setR8 h v).blocked = s.blocked := rfl
@[simp] theorem State.setR8_curOpcode (h : Reg8) (v : Byte) : (s.setR8 h v).curOpcode = s.curOpcode := rfl
@[simp] theorem State.setR8_instrCount (h : Reg8) (v : Byte) : (s.setR8 h v).instrCount = s.instrCount := rfl
@[simp] theorem State.setR8_diag (h : Reg8) (v : Byte) : (s.setR8 h v).diag = s.diag := rfl
@[simp] theorem State.setR8_io (h : Reg8) (v : Byte) : (s.setR8 h v).io = s.io := rfl
@[simp] theorem State.setR8_cfg (h : Reg8) (v : Byte) : (s.setR8 h v).cfg = s.cfg := rfl
@[simp] theorem State.setR8_keys (h : Reg8) (v : Byte) : (s.setR8 h v).keys = s.keys := rfl
@[simp] theorem State.setR8_clocks (h : Reg8) (v : Byte) : (s.setR8 h v).clocks = s.clocks := rfl
@[simp] theorem State.setR8_draws (h : Reg8) (v : Byte) : (s.setR8 h v).draws = s.draws := rfl
@[simp] theorem State.setR8_seg (h : Reg8) (v : Byte) (g' : SReg) : (s.setR8 h v).seg g' = s.seg g' := rfl
@[simp] theorem State.setR8_lin (h : Reg8) (v : Byte) (g' : SReg) (off : Nat) : (s.setR8 h v).lin g' off = s.lin g' off := rfl
@[simp] theorem State.setR8_flag (h : Reg8) (v : Byte) (x : FlagName) : (s.setR8 h v).flag x = s.flag x := rfl

/-! ### setSeg -/

@[simp] theorem State.setSeg_regs (g : SReg) (v : Word) : (s.setSeg g v).regs = s.regs := rfl
@[simp] theorem State.setSeg_segs (g : SReg) (v : Word) : (s.setSeg g v).segs = s.segs.set g v := rfl
@[simp] theorem State.setSeg_pc (g : SReg) (v : Word) : (s.setSeg g v).pc = s.pc := rfl
@[simp] theorem State.setSeg_flags (g : SReg) (v : Word) : (s.setSeg g v).flags = s.flags := rfl
@[simp] theorem State.setSeg_callStack (g : SReg) (v : Word) : (s.setSeg g v).callStack = s.callStack := rfl
@[simp] theorem State.setSeg_mem (g : SReg) (v : Word) : (s.setSeg g v).mem = s.mem := rfl
@[simp] theorem State.setSeg_videoMode (g : SReg) (v : Word) : (s.setSeg g v).videoMode = s.videoMode := rfl
@[simp] theorem State.setSeg_cursor (g : SReg) (v : Word) : (s.setSeg g v).cursor = s.cursor := rfl
@[simp] theorem State.setSeg_runState (g : SReg) (v : Word) : (s.setSeg g v).runState = s.runState := rfl
@[simp] theorem State.setSeg_blocked (g : SReg) (v : Word) : (s.setSeg g v).blocked = s.blocked := rfl
@[simp] theorem State.setSeg_curOpcode (g : SReg) (v : Word) : (s.setSeg g v).curOpcode = s.curOpcode := rfl
@[simp] theorem State.setSeg_instrCount (g : SReg) (v : Word) : (s.setSeg g v).instrCount = s.instrCount := rfl
@[simp] theorem State.setSeg_diag (g : SReg) (v : Word) : (s.setSeg g v).diag = s.diag := rfl
@[simp] theorem State.setSeg_io (g : SReg) (v : Word) : (s.setSeg g v).io = s.io := rfl
@[simp] theorem State.setSeg_cfg (g : SReg) (v : Word) : (s.setSeg g v).cfg = s.cfg := rfl
@[simp] theorem State.setSeg_keys (g : SReg) (v : Word) : (s.setSeg g v).keys = s.keys := rfl
@[simp] theorem State.setSeg_clocks (g : SReg) (v : Word) : (s.setSeg g v).clocks = s.clocks := rfl
@[simp] theorem State.setSeg_draws (g : SReg) (v : Word) : (s.setSeg g v).draws = s.draws := rfl
@[simp] theorem State.setSeg_r16 (g : SReg) (v : Word) (r' : Reg16) : (s.setSeg g v).r16 r' = s.r16 r' := rfl
@[simp] theorem State.setSeg_r8 (g : SReg) (v : Word) (h' : Reg8) : (s.setSeg g v).r8 h' = s.r8 h' := rfl
@[simp] theorem State.setSeg_flag (g : SReg) (v : Word) (x : FlagName) : (s.setSeg g v).flag x = s.flag x := rfl

/-! ### setFlags -/

@[simp] theorem State.setFlags_regs (f : Flags) : (s.setFlags f).regs = s.regs := rfl
@[simp] theorem State.setFlags_segs (f : Flags) : (s.setFlags f).segs = s.segs := rfl
@[simp] theorem State.setFlags_pc (f : Flags) : (s.setFlags f).pc = s.pc := rfl
@[simp] theorem State.setFlags_flags (f : Flags) : (s.setFlags f).flags = f := rfl
@[simp] theorem State.setFlags_callStack (f : Flags) : (s.setFlags f).callStack = s.callStack := rfl
@[simp] theorem State.setFlags_mem (f : Flags) : (s.setFlags f).mem = s.mem := rfl
@[simp] theorem State.setFlags_videoMode (f : Flags) : (s.setFlags f).videoMode = s.videoMode := rfl
@[simp] theorem State.setFlags_cursor (f : Flags) : (s.setFlags f).cursor = s.cursor := rfl
@[simp] theorem State.setFlags_runState (f : Flags) : (s.setFlags f).runState = s.runState := rfl
@[simp] theorem State.setFlags_blocked (f : Flags) : (s.setFlags f).blocked = s.blocked := rfl
@[simp] theorem State.setFlags_curOpcode (f : Flags) : (s.setFlags f).curOpcode = s.curOpcode := rfl
@[simp] theorem State.setFlags_instrCount (f : Flags) : (s.setFlags f).instrCount = s.instrCount := rfl
@[simp] theorem State.setFlags_diag (f : Flags) : (s.setFlags f).diag = s.diag := rfl
@[simp] theorem State.setFlags_io (f : Flags) : (s.setFlags f).io = s.io := rfl
@[simp] theorem State.setFlags_cfg (f : Flags) : (s.setFlags f).cfg = s.cfg := rfl
@[simp] theorem State.setFlags_keys (f : Flags) : (s.setFlags f).keys = s.keys := rfl
@[simp] theorem State.setFlags_clocks (f : Flags) : (s.setFlags f).clocks = s.clocks := rfl
@[simp] theorem State.setFlags_draws (f : Flags) : (s.setFlags f).draws = s.draws := rfl
@[simp] theorem State.setFlags_r16 (f : Flags) (r' : Reg16) : (s.setFlags f).r16 r' = s.r16 r' := rfl
@[simp] theorem State.setFlags_r8 (f : Flags) (h' : Reg8) : (s.setFlags f).r8 h' = s.r8 h' := rfl
@[simp] theorem State.setFlags_seg (f : Flags) (g' : SReg) : (s.setFlags f).seg g' = s.seg g' := rfl
@[simp] theorem State.setFlags_lin (f : Flags) (g' : SReg) (off : Nat) : (s.setFlags f).lin g' off = s.lin g' off := rfl

/-! ### setZf -/

@[simp] theorem State.setZf_regs (z : Bool) : (s.setZf z).regs = s.regs := rfl
@[simp] theorem State.setZf_segs (z : Bool) : (s.setZf z).segs = s.segs := rfl
@[simp] theorem State.setZf_pc (z : Bool) : (s.setZf z).pc = s.pc := rfl
@[simp] theorem State.setZf_flags (z : Bool) : (s.setZf z).flags = { s.flags with zf := z } := rfl
@[simp] theorem State.setZf_callStack (z : Bool) : (s.setZf z).callStack = s.callStack := rfl
@[simp] theorem State.setZf_mem (z : Bool) : (s.setZf z).mem = s.mem := rfl
@[simp] theorem State.setZf_videoMode (z : Bool) : (s.setZf z).videoMode = s.videoMode := rfl
@[simp] theorem State.setZf_cursor (z : Bool) : (s.setZf z).cursor = s.cursor := rfl
@[simp] theorem State.setZf_runState (z : Bool) : (s.setZf z).runState = s.runState := rfl
@[simp] theorem State.setZf_blocked (z : Bool) : (s.setZf z).blocked = s.blocked := rfl
@[simp] theorem State.setZf_curOpcode (z : Bool) : (s.setZf z).curOpcode = s.curOpcode := rfl
@[simp] theorem State.setZf_instrCount (z : Bool) : (s.setZf z).instrCount = s.instrCount := rfl
@[simp] theorem State.setZf_diag (z : Bool) : (s.setZf z).diag = s.diag := rfl
@[simp] theorem State.setZf_io (z : Bool) : (s.setZf z).io = s.io := rfl
@[simp] theorem State.setZf_cfg (z : Bool) : (s.setZf z).cfg = s.cfg := rfl
@[simp] theorem State.setZf_keys (z : Bool) : (s.setZf z).keys = s.keys := rfl
@[simp] theorem State.setZf_clocks (z : Bool) : (s.setZf z).clocks = s.clocks := rfl
@[simp] theorem State.setZf_draws (z : Bool) : (s.setZf z).draws = s.draws := rfl
@[simp] theorem State.setZf_r16 (z : Bool) (r' : Reg16) : (s.setZf z).r16 r' = s.r16 r' := rfl
@[simp] theorem State.setZf_r8 (z : Bool) (h' : Reg8) : (s.setZf z).r8 h' = s.r8 h' := rfl
@[simp] theorem State.setZf_seg (z : Bool) (g' : SReg) : (s.setZf z).seg g' = s.seg g' := rfl
@[simp] theorem State.setZf_lin (z : Bool) (g' : SReg) (off : Nat) : (s.setZf z).lin g' off = s.lin g' off := rfl

/-! ### setPc -/

@[simp] theorem State.setPc_regs (n : Nat) : (s.setPc n).regs = s.regs := rfl
@[simp] theorem State.setPc_segs (n : Nat) : (s.setPc n).segs = s.segs := rfl
@[simp] theorem State.setPc_pc (n : Nat) : (s.setPc n).pc = n := rfl
@[simp] theorem State.setPc_flags (n : Nat) : (s.setPc n).flags = s.flags := rfl
@[simp] theorem State.setPc_callStack (n : Nat) : (s.setPc n).callStack = s.callStack := rfl
@[simp] theorem State.setPc_mem (n : Nat) : (s.setPc n).mem = s.mem := rfl
@[simp] theorem State.setPc_videoMode (n : Nat) : (s.setPc n).videoMode = s.videoMode := rfl
@[simp] theorem State.setPc_cursor (n : Nat) : (s.setPc n).cursor = s.cursor := rfl
@[simp] theorem State.setPc_runState (n : Nat) : (s.setPc n).runState = s.runState := rfl
@[simp] theorem State.setPc_blocked (n : Nat) : (s.setPc n).blocked = s.blocked := rfl
@[simp] theorem State.setPc_curOpcode (n : Nat) : (s.setPc n).curOpcode = s.curOpcode := rfl
@[simp] theorem State.setPc_instrCount (n : Nat) : (s.setPc n).instrCount = s.instrCount := rfl
@[simp] theorem State.setPc_diag (n : Nat) : (s.setPc n).diag = s.diag := rfl
@[simp] theorem State.setPc_io (n : Nat) : (s.setPc n).io = s.io := rfl
@[simp] theorem State.setPc_cfg (n : Nat) : (s.setPc n).cfg = s.cfg := rfl
@[simp] theorem State.setPc_keys (n : Nat) : (s.setPc n).keys = s.keys := rfl
@[simp] theorem State.setPc_clocks (n : Nat) : (s.setPc n).clocks = s.clocks := rfl
@[simp] theorem State.setPc_draws (n : Nat) : (s.setPc n).draws = s.draws := rfl
@[simp] theorem State.setPc_r16 (n : Nat) (r' : Reg16) : (s.setPc n).r16 r' = s.r16 r' := rfl
@[simp] theorem State.setPc_r8 (n : Nat) (h' : Reg8) : (s.setPc n).r8 h' = s.r8 h' := rfl
@[simp] theorem State.setPc_seg (n : Nat) (g' : SReg) : (s.setPc n).seg g' = s.seg g' := rfl
@[simp] theorem State.setPc_lin (n : Nat) (g' : SReg) (off : Nat) : (s.setPc n).lin g' off = s.lin g' off := rfl
@[simp] theorem State.setPc_flag (n : Nat) (x : FlagName) : (s.setPc n).flag x = s.flag x := rfl

/-! ### skip -/

@[simp] theorem State.skip_regs (n : Nat) : (s.skip n).regs = s.regs := rfl
@[simp] theorem State.skip_segs (n : Nat) : (s.skip n).segs = s.segs := rfl
@[simp] theorem State.skip_pc (n : Nat) : (s.skip n).pc = s.pc + n := rfl
@[simp] theorem State.skip_flags (n : Nat) : (s.skip n).flags = s.flags := rfl
@[simp] theorem State.skip_callStack (n : Nat) : (s.skip n).callStack = s.callStack := rfl
@[simp] theorem State.skip_mem (n : Nat) : (s.skip n).mem = s.mem := rfl
@[simp] theorem State.skip_videoMode (n : Nat) : (s.skip n).videoMode = s.videoMode := rfl
@[simp] theorem State.skip_cursor (n : Nat) : (s.skip n).cursor = s.cursor := rfl
@[simp] theorem State.skip_runState (n : Nat) : (s.skip n).runState = s.runState := rfl
@[simp] theorem State.skip_blocked (n : Nat) : (s.skip n).blocked = s.blocked := rfl
@[simp] theorem State.skip_curOpcode (n : Nat) : (s.skip n).curOpcode = s.curOpcode := rfl
@[simp] theorem State.skip_instrCount (n : Nat) : (s.skip n).instrCount = s.instrCount := rfl
@[simp] theorem State.skip_diag (n : Nat) : (s.skip n).diag = s.diag := rfl
@[simp] theorem State.skip_io (n : Nat) : (s.skip n).io = s.io := rfl
@[simp] theorem State.skip_cfg (n : Nat) : (s.skip n).cfg = s.cfg := rfl
@[simp] theorem State.skip_keys (n : Nat) : (s.skip n).keys = s.keys := rfl
@[simp] theorem State.skip_clocks (n : Nat) : (s.skip n).clocks = s.clocks := rfl
@[simp] theorem State.skip_draws (n : Nat) : (s.skip n).draws = s.draws := rfl
@[simp] theorem State.skip_r16 (n : Nat) (r' : Reg16) : (s.skip n).r16 r' = s.r16 r' := rfl
@[simp] theorem State.skip_r8 (n : Nat) (h' : Reg8) : (s.skip n).r8 h' = s.r8 h' := rfl
@[simp] theorem State.skip_seg (n : Nat) (g' : SReg) : (s.skip n).seg g' = s.seg g' := rfl
@[simp] theorem State.skip_lin (n : Nat) (g' : SReg) (off : Nat) : (s.skip n).lin g' off = s.lin g' off := rfl
@[simp] theorem State.skip_flag (n : Nat) (x : FlagName) : (s.skip n).flag x = s.flag x := rfl

/-! ### note -/

@[simp] theorem State.note_regs (d : DiagEvent) : (s.note d).regs = s.regs := rfl
@[simp] theorem State.note_segs (d : DiagEvent) : (s.note d).segs = s.segs := rfl
@[simp] theorem State.note_pc (d : DiagEvent) : (s.note d).pc = s.pc := rfl
@[simp] theorem State.note_flags (d : DiagEvent) : (s.note d).flags = s.flags := rfl
@[simp] theorem State.note_callStack (d : DiagEvent) : (s.note d).callStack = s.callStack := rfl
@[simp] theorem State.note_mem (d : DiagEvent) : (s.note d).mem = s.mem := rfl
@[simp] theorem State.note_videoMode (d : DiagEvent) : (s.note d).videoMode = s.videoMode := rfl
@[simp] theorem State.note_cursor (d : DiagEvent) : (s.note d).cursor = s.cursor := rfl
@[simp] theorem State.note_runState (d : DiagEvent) : (s.note d).runState = s.runState := rfl
@[simp] theorem State.note_blocked (d : DiagEvent) : (s.note d).blocked = s.blocked := rfl
@[simp] theorem State.note_curOpcode (d : DiagEvent) : (s.note d).curOpcode = s.curOpcode := rfl
@[simp] theorem State.note_instrCount (d : DiagEvent) : (s.note d).instrCount = s.instrCount := rfl
@[simp] theorem State.note_diag (d : DiagEvent) : (s.note d).diag = s.diag ++ [d] := rfl
@[simp] theorem State.note_io (d : DiagEvent) : (s.note d).io = s.io := rfl
@[simp] theorem State.note_cfg (d : DiagEvent) : (s.note d).cfg = s.cfg := rfl
@[simp] theorem State.note_keys (d : DiagEvent) : (s.note d).keys = s.keys := rfl
@[simp] theorem State.note_clocks (d : DiagEvent) : (s.note d).clocks = s.clocks := rfl
@[simp] theorem State.note_draws (d : DiagEvent) : (s.note d).draws = s.draws := rfl
@[simp] theorem State.note_r16 (d : DiagEvent) (r' : Reg16) : (s.note d).r16 r' = s.r16 r' := rfl
@[simp] theorem State.note_r8 (d : DiagEvent) (h' : Reg8) : (s.note d).r8 h' = s.r8 h' := rfl
@[simp] theorem State.note_seg (d : DiagEvent) (g' : SReg) : (s.note d).seg g' = s.seg g' := rfl
@[simp] theorem State.note_lin (d : DiagEvent) (g' : SReg) (off : Nat) : (s.note d).lin g' off = s.lin g' off := rfl
@[simp] theorem State.note_flag (d : DiagEvent) (x : FlagName) : (s.note d).flag x = s.flag x := rfl

/-! ### halt -/

@[simp] theorem State.halt_regs (r : HaltReason) : (s.halt r).regs = s.regs := rfl
@[simp] theorem State.halt_segs (r : HaltReason) : (s.halt r).segs = s.segs := rfl
@[simp] theorem State.halt_pc (r : HaltReason) : (s.halt r).pc = s.pc := rfl
@[simp] theorem State.halt_flags (r : HaltReason) : (s.halt r).flags = s.flags := rfl
@[simp] theorem State.halt_callStack (r : HaltReason) : (s.halt r).callStack = s.callStack := rfl
@[simp] theorem State.halt_mem (r : HaltReason) : (s.halt r).mem = s.mem := rfl
@[simp] theorem State.halt_videoMode (r : HaltReason) : (s.halt r).videoMode = s.videoMode := rfl
@[simp] theorem State.halt_cursor (r : HaltReason) : (s.halt r).cursor = s.cursor := rfl
@[simp] theorem State.halt_runState (r : HaltReason) : (s.halt r).runState = .halted r := rfl
@[simp] theorem State.halt_blocked (r : HaltReason) : (s.halt r).blocked = s.blocked := rfl
@[simp] theorem State.halt_curOpcode (r : HaltReason) : (s.halt r).curOpcode = s.curOpcode := rfl
@[simp] theorem State.halt_instrCount (r : HaltReason) : (s.halt r).instrCount = s.instrCount := rfl
@[simp] theorem State.halt_diag (r : HaltReason) : (s.halt r).diag = s.diag := rfl
@[simp] theorem State.halt_io (r : HaltReason) : (s.halt r).io = s.io := rfl
@[simp] theorem State.halt_cfg (r : HaltReason) : (s.halt r).cfg = s.cfg := rfl
@[simp] theorem State.halt_keys (r : HaltReason) : (s.halt r).keys = s.keys := rfl
@[simp] theorem State.halt_clocks (r : HaltReason) : (s.halt r).clocks = s.clocks := rfl
@[simp] theorem State.halt_draws (r : HaltReason) : (s.halt r).draws = s.draws := rfl
@[simp] theorem State.halt_r16 (r : HaltReason) (r' : Reg16) : (s.halt r).r16 r' = s.r16 r' := rfl
@[simp] theorem State.halt_r8 (r : HaltReason) (h' : Reg8) : (s.halt r).r8 h' = s.r8 h' := rfl
@[simp] theorem State.halt_seg (r : HaltReason) (g' : SReg) : (s.halt r).seg g' = s.seg g' := rfl
@[simp] theorem State.halt_lin (r : HaltReason) (g' : SReg) (off : Nat) : (s.halt r).lin g' off = s.lin g' off := rfl
@[simp] theorem State.halt_flag (r : HaltReason) (x : FlagName) : (s.halt r).flag x = s.flag x := rfl

/-! ### raiseAt -/

@[simp] theorem State.raiseAt_regs (n : Nat) (c : Cond) : (s.raiseAt n c).regs = s.regs := rfl
@[simp] theorem State.raiseAt_segs (n : Nat) (c : Cond) : (s.raiseAt n c).segs = s.segs := rfl
@[simp] theorem State.raiseAt_pc (n : Nat) (c : Cond) : (s.raiseAt n c).pc = s.pc := rfl
@[simp] theorem State.raiseAt_flags (n : Nat) (c : Cond) : (s.raiseAt n c).flags = s.flags := rfl
@[simp] theorem State.raiseAt_callStack (n : Nat) (c : Cond) : (s.raiseAt n c).callStack = s.callStack := rfl
@[simp] theorem State.raiseAt_mem (n : Nat) (c : Cond) : (s.raiseAt n c).mem = s.mem := rfl
@[simp] theorem State.raiseAt_videoMode (n : Nat) (c : Cond) : (s.raiseAt n c).videoMode = s.videoMode := rfl
@[simp] theorem State.raiseAt_cursor (n : Nat) (c : Cond) : (s.raiseAt n c).cursor = s.cursor := rfl
@[simp] theorem State.raiseAt_runState (n : Nat) (c : Cond) : (s.raiseAt n c).runState = .halted (c.reason n) := rfl
@[simp] theorem State.raiseAt_blocked (n : Nat) (c : Cond) : (s.raiseAt n c).blocked = s.blocked := rfl
@[simp] theorem State.raiseAt_curOpcode (n : Nat) (c : Cond) : (s.raiseAt n c).curOpcode = s.curOpcode := rfl
@[simp] theorem State.raiseAt_instrCount (n : Nat) (c : Cond) : (s.raiseAt n c).instrCount = s.instrCount := rfl
@[simp] theorem State.raiseAt_diag (n : Nat) (c : Cond) : (s.raiseAt n c).diag = s.diag ++ [c.event n] := rfl
@[simp] theorem State.raiseAt_io (n : Nat) (c : Cond) : (s.raiseAt n c).io = s.io := rfl
@[simp] theorem State.raiseAt_cfg (n : Nat) (c : Cond) : (s.raiseAt n c).cfg = s.cfg := rfl
@[simp] theorem State.raiseAt_keys (n : Nat) (c : Cond) : (s.raiseAt n c).keys = s.keys := rfl
@[simp] theorem State.raiseAt_clocks (n : Nat) (c : Cond) : (s.raiseAt n c).clocks = s.clocks := rfl
@[simp] theorem State.raiseAt_draws (n : Nat) (c : Cond) : (s.raiseAt n c).draws = s.draws := rfl
@[simp] theorem State.raiseAt_r16 (n : Nat) (c : Cond) (r' : Reg16) : (s.raiseAt n c).r16 r' = s.r16 r' := rfl
@[simp] theorem State.raiseAt_r8 (n : Nat) (c : Cond) (h' : Reg8) : (s.raiseAt n c).r8 h' = s.r8 h' := rfl
@[simp] theorem State.raiseAt_seg (n : Nat) (c : Cond) (g' : SReg) : (s.raiseAt n c).seg g' = s.seg g' := rfl
@[simp] theorem State.raiseAt_lin (n : Nat) (c : Cond) (g' : SReg) (off : Nat) : (s.raiseAt n c).lin g' off = s.lin g' off := rfl
@[simp] theorem State.raiseAt_flag (n : Nat) (c : Cond) (x : FlagName) : (s.raiseAt n c).flag x = s.flag x := rfl

/-! ### raise -/

@[simp] theorem State.raise_regs (c : Cond) : (s.raise c).regs = s.regs := rfl
@[simp] theorem State.raise_segs (c : Cond) : (s.raise c).segs = s.segs := rfl
@[simp] theorem State.raise_pc (c : Cond) : (s.raise c).pc = s.pc := rfl
@[simp] theorem State.raise_flags (c : Cond) : (s.raise c).flags = s.flags := rfl
@[simp] theorem State.raise_callStack (c : Cond) : (s.raise c).callStack = s.callStack := rfl
@[simp] theorem State.raise_mem (c : Cond) : (s.raise c).mem = s.mem := rfl
@[simp] theorem State.raise_videoMode (c : Cond) : (s.raise c).videoMode = s.videoMode := rfl
@[simp] theorem State.raise_cursor (c : Cond) : (s.raise c).cursor = s.cursor := rfl
@[simp] theorem State.raise_runState (c : Cond) : (s.raise c).runState = .halted (c.reason (s.pc - 1)) := rfl
@[simp] theorem State.raise_blocked (c : Cond) : (s.raise c).blocked = s.blocked := rfl
@[simp] theorem State.raise_curOpcode (c : Cond) : (s.raise c).curOpcode = s.curOpcode := rfl
@[simp] theorem State.raise_instrCount (c : Cond) : (s.raise c).instrCount = s.instrCount := rfl
@[simp] theorem State.raise_diag (c : Cond) : (s.raise c).diag = s.diag ++ [c.event (s.pc - 1)] := rfl
@[simp] theorem State.raise_io (c : Cond) : (s.raise c).io = s.io := rfl
@[simp] theorem State.raise_cfg (c : Cond) : (s.raise c).cfg = s.cfg := rfl
@[simp] theorem State.raise_keys (c : Cond) : (s.raise c).keys = s.keys := rfl
@[simp] theorem State.raise_clocks (c : Cond) : (s.raise c).clocks = s.clocks := rfl
@[simp] theorem State.raise_draws (c : Cond) : (s.raise c).draws = s.draws := rfl
@[simp] theorem State.raise_r16 (c : Cond) (r' : Reg16) : (s.raise c).r16 r' = s.r16 r' := rfl
@[simp] theorem State.raise_r8 (c : Cond) (h' : Reg8) : (s.raise c).r8 h' = s.r8 h' := rfl
@[simp] theorem State.raise_seg (c : Cond) (g' : SReg) : (s.raise c).seg g' = s.seg g' := rfl
@[simp] theorem State.raise_lin (c : Cond) (g' : SReg) (off : Nat) : (s.raise c).lin g' off = s.lin g' off := rfl
@[simp] theorem State.raise_flag (c : Cond) (x : FlagName) : (s.raise c).flag x = s.flag x := rfl

/-! ### setMem -/

@[simp] theorem State.setMem_regs (m : Mem) : (s.setMem m).regs = s.regs := rfl
@[simp] theorem State.setMem_segs (m : Mem) : (s.setMem m).segs = s.segs := rfl
@[simp] theorem State.setMem_pc (m : Mem) : (s.setMem m).pc = s.pc := rfl
@[simp] theorem State.setMem_flags (m : Mem) : (s.setMem m).flags = s.flags := rfl
@[simp] theorem State.setMem_callStack (m : Mem) : (s.setMem m).callStack = s.callStack := rfl
@[simp] theorem State.setMem_mem (m : Mem) : (s.setMem m).mem = m := rfl
@[simp] theorem State.setMem_videoMode (m : Mem) : (s.setMem m).videoMode = s.videoMode := rfl
@[simp] theorem State.setMem_cursor (m : Mem) : (s.setMem m).cursor = s.cursor := rfl
@[simp] theorem State.setMem_runState (m : Mem) : (s.setMem m).runState = s.runState := rfl
@[simp] theorem State.setMem_blocked (m : Mem) : (s.setMem m).blocked = s.blocked := rfl
@[simp] theorem State.setMem_curOpcode (m : Mem) : (s.setMem m).curOpcode = s.curOpcode := rfl
@[simp] theorem State.setMem_instrCount (m : Mem) : (s.setMem m).instrCount = s.instrCount := rfl
@[simp] theorem State.setMem_diag (m : Mem) : (s.setMem m).diag = s.diag := rfl
@[simp] theorem State.setMem_io (m : Mem) : (s.setMem m).io = s.io := rfl
@[simp] theorem State.setMem_cfg (m : Mem) : (s.setMem m).cfg = s.cfg := rfl
@[simp] theorem State.setMem_keys (m : Mem) : (s.setMem m).keys = s.keys := rfl
@[simp] theorem State.setMem_clocks (m : Mem) : (s.setMem m).clocks = s.clocks := rfl
@[simp] theorem State.setMem_draws (m : Mem) : (s.setMem m).draws = s.draws := rfl
@[simp] theorem State.setMem_r16 (m : Mem) (r' : Reg16) : (s.setMem m).r16 r' = s.r16 r' := rfl
@[simp] theorem State.setMem_r8 (m : Mem) (h' : Reg8) : (s.setMem m).r8 h' = s.r8 h' := rfl
@[simp] theorem State.setMem_seg (m : Mem) (g' : SReg) : (s.setMem m).seg g' = s.seg g' := rfl
@[simp] theorem State.setMem_lin (m : Mem) (g' : SReg) (off : Nat) : (s.setMem m).lin g' off = s.lin g' off := rfl
@[simp] theorem State.setMem_flag (m : Mem) (x : FlagName) : (s.setMem m).flag x = s.flag x := rfl

/-! ### pushCall -/

@[simp] theorem State.pushCall_regs (n : Nat) : (s.pushCall n).regs = s.regs := rfl
@[simp] theorem State.pushCall_segs (n : Nat) : (s.pushCall n).segs = s.segs := rfl
@[simp] theorem State.pushCall_pc (n : Nat) : (s.pushCall n).pc = s.pc := rfl
@[simp] theorem State.pushCall_flags (n : Nat) : (s.pushCall n).flags = s.flags := rfl
@[simp] theorem State.pushCall_callStack (n : Nat) : (s.pushCall n).callStack = s.callStack ++ [n] := rfl
@[simp] theorem State.pushCall_mem (n : Nat) : (s.pushCall n).mem = s.mem := rfl
@[simp] theorem State.pushCall_videoMode (n : Nat) : (s.pushCall n).videoMode = s.videoMode := rfl
@[simp] theorem State.pushCall_cursor (n : Nat) : (s.pushCall n).cursor = s.cursor := rfl
@[simp] theorem State.pushCall_runState (n : Nat) : (s.pushCall n).runState = s.runState := rfl
@[simp] theorem State.pushCall_blocked (n : Nat) : (s.pushCall n).blocked = s.blocked := rfl
@[simp] theorem State.pushCall_curOpcode (n : Nat) : (s.pushCall n).curOpcode = s.curOpcode := rfl
@[simp] theorem State.pushCall_instrCount (n : Nat) : (s.pushCall n).instrCount = s.instrCount := rfl
@[simp] theorem State.pushCall_diag (n : Nat) : (s.pushCall n).diag = s.diag := rfl
@[simp] theorem State.pushCall_io (n : Nat) : (s.pushCall n).io = s.io := rfl
@[simp] theorem State.pushCall_cfg (n : Nat) : (s.pushCall n).cfg = s.cfg := rfl
@[simp] theorem State.pushCall_keys (n : Nat) : (s.pushCall n).keys = s.keys := rfl
@[simp] theorem State.pushCall_clocks (n : Nat) : (s.pushCall n).clocks = s.clocks := rfl
@[simp] theorem State.pushCall_draws (n : Nat) : (s.pushCall n).draws = s.draws := rfl
@[simp] theorem State.pushCall_r16 (n : Nat) (r' : Reg16) : (s.pushCall n).r16 r' = s.r16 r' := rfl
@[simp] theorem State.pushCall_r8 (n : Nat) (h' : Reg8) : (s.pushCall n).r8 h' = s.r8 h' := rfl
@[simp] theorem State.pushCall_seg (n : Nat) (g' : SReg) : (s.pushCall n).seg g' = s.seg g' := rfl
@[simp] theorem State.pushCall_lin (n : Nat) (g' : SReg) (off : Nat) : (s.pushCall n).lin g' off = s.lin g' off := rfl
@[simp] theorem State.pushCall_flag (n : Nat) (x : FlagName) : (s.pushCall n).flag x = s.flag x := rfl

/-! ### popCall -/

@[simp] theorem State.popCall_regs : (s.popCall).regs = s.regs := rfl
@[simp] theorem State.popCall_segs : (s.popCall).segs = s.segs := rfl
@[simp] theorem State.popCall_pc : (s.popCall).pc = s.pc := rfl
@[simp] theorem State.popCall_flags : (s.popCall).flags = s.flags := rfl
@[simp] theorem State.popCall_callStack : (s.popCall).callStack = s.callStack.dropLast := rfl
@[simp] theorem State.popCall_mem : (s.popCall).mem = s.mem := rfl
@[simp] theorem State.popCall_videoMode : (s.popCall).videoMode = s.videoMode := rfl
@[simp] theorem State.popCall_cursor : (s.popCall).cursor = s.cursor := rfl
@[simp] theorem State.popCall_runState : (s.popCall).runState = s.runState := rfl
@[simp] theorem State.popCall_blocked : (s.popCall).blocked = s.blocked := rfl
@[simp] theorem State.popCall_curOpcode : (s.popCall).curOpcode = s.curOpcode := rfl
@[simp] theorem State.popCall_instrCount : (s.popCall).instrCount = s.instrCount := rfl
@[simp] theorem State.popCall_diag : (s.popCall).diag = s.diag := rfl
@[simp] theorem State.popCall_io : (s.popCall).io = s.io := rfl
@[simp] theorem State.popCall_cfg : (s.popCall).cfg = s.cfg := rfl
@[simp] theorem State.popCall_keys : (s.popCall).keys = s.keys := rfl
@[simp] theorem State.popCall_clocks : (s.popCall).clocks = s.clocks := rfl
@[simp] theorem State.popCall_draws : (s.popCall).draws = s.draws := rfl
@[simp] theorem State.popCall_r16 (r' : Reg16) : (s.popCall).r16 r' = s.r16 r' := rfl
@[simp] theorem State.popCall_r8 (h' : Reg8) : (s.popCall).r8 h' = s.r8 h' := rfl
@[simp] theorem State.popCall_seg (g' : SReg) : (s.popCall).seg g' = s.seg g' := rfl
@[simp] theorem State.popCall_lin (g' : SReg) (off : Nat) : (s.popCall).lin g' off = s.lin g' off := rfl
@[simp] theorem State.popCall_flag (x : FlagName) : (s.popCall).flag x = s.flag x := rfl

/-! ### countOpcode -/

@[simp] theorem State.countOpcode_regs (op : Byte) : (s.countOpcode op).regs = s.regs := rfl
@[simp] theorem State.countOpcode_segs (op : Byte) : (s.countOpcode op).segs = s.segs := rfl
@[simp] theorem State.countOpcode_pc (op : Byte) : (s.countOpcode op).pc = s.pc := rfl
@[simp] theorem State.countOpcode_flags (op : Byte) : (s.countOpcode op).flags = s.flags := rfl
@[simp] theorem State.countOpcode_callStack (op : Byte) : (s.countOpcode op).callStack = s.callStack := rfl
@[simp] theorem State.countOpcode_mem (op : Byte) : (s.countOpcode op).mem = s.mem := rfl
@[simp] theorem State.countOpcode_videoMode (op : Byte) : (s.countOpcode op).videoMode = s.videoMode := rfl
@[simp] theorem State.countOpcode_cursor (op : Byte) : (s.countOpcode op).cursor = s.cursor := rfl
@[simp] theorem State.countOpcode_runState (op : Byte) : (s.countOpcode op).runState = s.runState := rfl
@[simp] theorem State.countOpcode_blocked (op : Byte) : (s.countOpcode op).blocked = s.blocked := rfl
@[simp] theorem State.countOpcode_curOpcode (op : Byte) : (s.countOpcode op).curOpcode = op := rfl
@[simp] theorem State.countOpcode_instrCount (op : Byte) : (s.countOpcode op).instrCount = s.instrCount + 1 := rfl
@[simp] theorem State.countOpcode_diag (op : Byte) : (s.countOpcode op).diag = s.diag := rfl
@[simp] theorem State.countOpcode_io (op : Byte) : (s.countOpcode op).io = s.io := rfl
@[simp] theorem State.countOpcode_cfg (op : Byte) : (s.countOpcode op).cfg = s.cfg := rfl
@[simp] theorem State.countOpcode_keys (op : Byte) : (s.countOpcode op).keys = s.keys := rfl
@[simp] theorem State.countOpcode_clocks (op : Byte) : (s.countOpcode op).clocks = s.clocks := rfl
@[simp] theorem State.countOpcode_draws (op : Byte) : (s.countOpcode op).draws = s.draws := rfl
@[simp] theorem State.countOpcode_r16 (op : Byte) (r' : Reg16) : (s.countOpcode op).r16 r' = s.r16 r' := rfl
@[simp] theorem State.countOpcode_r8 (op : Byte) (h' : Reg8) : (s.countOpcode op).r8 h' = s.r8 h' := rfl
@[simp] theorem State.countOpcode_seg (op : Byte) (g' : SReg) : (s.countOpcode op).seg g' = s.seg g' := rfl
@[simp] theorem State.countOpcode_lin (op : Byte) (g' : SReg) (off : Nat) : (s.countOpcode op).lin g' off = s.lin g' off := rfl
@[simp] theorem State.countOpcode_flag (op : Byte) (x : FlagName) : (s.countOpcode op).flag x = s.flag x := rfl

/-! ### emit -/

@[simp] theorem State.emit_regs (es : List IoEvent) : (s.emit es).regs = s.regs := rfl
@[simp] theorem State.emit_segs (es : List IoEvent) : (s.emit es).segs = s.segs := rfl
@[simp] theorem State.emit_pc (es : List IoEvent) : (s.emit es).pc = s.pc := rfl
@[simp] theorem State.emit_flags (es : List IoEvent) : (s.emit es).flags = s.flags := rfl
@[simp] theorem State.emit_callStack (es : List IoEvent) : (s.emit es).callStack = s.callStack := rfl
@[simp] theorem State.emit_mem (es : List IoEvent) : (s.emit es).mem = s.mem := rfl
@[simp] theorem State.emit_videoMode (es : List IoEvent) : (s.emit es).videoMode = s.videoMode := rfl
@[simp] theorem State.emit_cursor (es : List IoEvent) : (s.emit es).cursor = s.cursor := rfl
@[simp] theorem State.emit_runState (es : List IoEvent) : (s.emit es).runState = s.runState := rfl
@[simp] theorem State.emit_blocked (es : List IoEvent) : (s.emit es).blocked = s.blocked := rfl
@[simp] theorem State.emit_curOpcode (es : List IoEvent) : (s.emit es).curOpcode = s.curOpcode := rfl
@[simp] theorem State.emit_instrCount (es : List IoEvent) : (s.emit es).instrCount = s.instrCount := rfl
@[simp] theorem State.emit_diag (es : List IoEvent) : (s.emit es).diag = s.diag := rfl
@[simp] theorem State.emit_io (es : List IoEvent) : (s.emit es).io = s.io ++ es := rfl
@[simp] theorem State.emit_cfg (es : List IoEvent) : (s.emit es).cfg = s.cfg := rfl
@[simp] theorem State.emit_keys (es : List IoEvent) : (s.emit es).keys = s.keys := rfl
@[simp] theorem State.emit_clocks (es : List IoEvent) : (s.emit es).clocks = s.clocks := rfl
@[simp] theorem State.emit_draws (es : List IoEvent) : (s.emit es).draws = s.draws := rfl
@[simp] theorem State.emit_r16 (es : List IoEvent) (r' : Reg16) : (s.emit es).r16 r' = s.r16 r' := rfl
@[simp] theorem State.emit_r8 (es : List IoEvent) (h' : Reg8) : (s.emit es).r8 h' = s.r8 h' := rfl
@[simp] theorem State.emit_seg (es : List IoEvent) (g' : SReg) : (s.emit es).seg g' = s.seg g' := rfl
@[simp] theorem State.emit_lin (es : List IoEvent) (g' : SReg) (off : Nat) : (s.emit es).lin g' off = s.lin g' off := rfl
@[simp] theorem State.emit_flag (es : List IoEvent) (x : FlagName) : (s.emit es).flag x = s.flag x := rfl

/-! ### dropKey -/

@[simp] theorem State.dropKey_regs : (s.dropKey).regs = s.regs := by unfold State.dropKey; split <;> rfl
@[simp] theorem State.dropKey_segs : (s.dropKey).segs = s.segs := by unfold State.dropKey; split <;> rfl
@[simp] theorem State.dropKey_pc : (s.dropKey).pc = s.pc := by unfold State.dropKey; split <;> rfl
@[simp] theorem State.dropKey_flags : (s.dropKey).flags = s.flags := by unfold State.dropKey; split <;> rfl
@[simp] theorem State.dropKey_callStack : (s.dropKey).callStack = s.callStack := by unfold State.dropKey; split <;> rfl
@[simp] theorem State.dropKey_mem : (s.dropKey).mem = s.mem := by unfold State.dropKey; split <;> rfl
@[simp] theorem State.dropKey_videoMode : (s.dropKey).videoMode = s.videoMode := by unfold State.dropKey; split <;> rfl
@[simp] theorem State.dropKey_cursor : (s.dropKey).cursor = s.cursor := by unfold State.dropKey; split <;> rfl
@[simp] theorem State.dropKey_runState : (s.dropKey).runState = s.runState := by unfold State.dropKey; split <;> rfl
@[simp] theorem State.dropKey_blocked : (s.dropKey).blocked = s.blocked := by unfold State.dropKey; split <;> rfl
@[simp] theorem State.dropKey_curOpcode : (s.dropKey).curOpcode = s.curOpcode := by unfold State.dropKey; split <;> rfl
@[simp] theorem State.dropKey_instrCount : (s.dropKey).instrCount = s.instrCount := by unfold State.dropKey; split <;> rfl
@[simp] theorem State.dropKey_diag : (s.dropKey).diag = s.diag := by unfold State.dropKey; split <;> rfl
@[simp] theorem State.dropKey_io : (s.dropKey).io = s.io := by unfold State.dropKey; split <;> rfl
@[simp] theorem State.dropKey_cfg : (s.dropKey).cfg = s.cfg := by unfold State.dropKey; split <;> rfl
@[simp] theorem State.dropKey_clocks : (s.dropKey).clocks = s.clocks := by unfold State.dropKey; split <;> rfl
@[simp] theorem State.dropKey_r16 (r' : Reg16) : (s.dropKey).r16 r' = s.r16 r' := by simp [State.r16]
@[simp] theorem State.dropKey_r8 (h' : Reg8) : (s.dropKey).r8 h' = s.r8 h' := by simp [State.r8]

/-! ### dropClock -/

@[simp] theorem State.dropClock_regs : (s.dropClock).regs = s.regs := by unfold State.dropClock; split <;> rfl
@[simp] theorem State.dropClock_segs : (s.dropClock).segs = s.segs := by unfold State.dropClock; split <;> rfl
@[simp] theorem State.dropClock_pc : (s.dropClock).pc = s.pc := by unfold State.dropClock; split <;> rfl
@[simp] theorem State.dropClock_flags : (s.dropClock).flags = s.flags := by unfold State.dropClock; split <;> rfl
@[simp] theorem State.dropClock_callStack : (s.dropClock).callStack = s.callStack := by unfold State.dropClock; split <;> rfl
@[simp] theorem State.dropClock_mem : (s.dropClock).mem = s.mem := by unfold State.dropClock; split <;> rfl
@[simp] theorem State.dropClock_videoMode : (s.dropClock).videoMode = s.videoMode := by unfold State.dropClock; split <;> rfl
@[simp] theorem State.dropClock_cursor : (s.dropClock).cursor = s.cursor := by unfold State.dropClock; split <;> rfl
@[simp] theorem State.dropClock_runState : (s.dropClock).runState = s.runState := by unfold State.dropClock; split <;> rfl
@[simp] theorem State.dropClock_blocked : (s.dropClock).blocked = s.blocked := by unfold State.dropClock; split <;> rfl
@[simp] theorem State.dropClock_curOpcode : (s.dropClock).curOpcode = s.curOpcode := by unfold State.dropClock; split <;> rfl
@[simp] theorem State.dropClock_instrCount : (s.dropClock).instrCount = s.instrCount := by unfold State.dropClock; split <;> rfl
@[simp] theorem State.dropClock_diag : (s.dropClock).diag = s.diag := by unfold State.dropClock; split <;> rfl
@[simp] theorem State.dropClock_io : (s.dropClock).io = s.io := by unfold State.dropClock; split <;> rfl
@[simp] theorem State.dropClock_cfg : (s.dropClock).cfg = s.cfg := by unfold State.dropClock; split <;> rfl
@[simp] theorem State.dropClock_keys : (s.dropClock).keys = s.keys := by unfold State.dropClock; split <;> rfl
@[simp] theorem State.dropClock_r16 (r' : Reg16) : (s.dropClock).r16 r' = s.r16 r' := by simp [State.r16]
@[simp] theorem State.dropClock_r8 (h' : Reg8) : (s.dropClock).r8 h' = s.r8 h' := by simp [State.r8]

end Sys2Proof.Machine
end

