-- ==== Sys2Proof/Laws/Registers.lean ====
section
/-! SUPPORT. The laws of bytes and words and of the register accessors. -/

namespace Sys2Proof

@[simp] theorem lowByte_joinBytes (hi lo : Byte) : lowByte (joinBytes hi lo) = lo := by
  apply BitVec.eq_of_toNat_eq
  simp only [lowByte, joinBytes, BitVec.extractLsb'_toNat, BitVec.toNat_append, Nat.shiftRight_zero]
  rw [← Nat.shiftLeft_add_eq_or_of_lt lo.isLt, Nat.shiftLeft_eq]
  have := lo.isLt
  omega

@[simp] theorem highByte_joinBytes (hi lo : Byte) : highByte (joinBytes hi lo) = hi := by
  apply BitVec.eq_of_toNat_eq
  simp only [highByte, joinBytes, BitVec.extractLsb'_toNat, BitVec.toNat_append]
  rw [← Nat.shiftLeft_add_eq_or_of_lt lo.isLt, Nat.shiftLeft_eq, Nat.shiftRight_eq_div_pow]
  have := lo.isLt
  have := hi.isLt
  omega

theorem joinBytes_toNat (hi lo : Byte) : (joinBytes hi lo).toNat = hi.toNat * 256 + lo.toNat := by
  simp only [joinBytes, BitVec.toNat_append]
  rw [← Nat.shiftLeft_add_eq_or_of_lt lo.isLt, Nat.shiftLeft_eq]

theorem lowByte_toNat (w : Word) : (lowByte w).toNat = w.toNat % 256 := by
  simp [lowByte]

theorem highByte_toNat (w : Word) : (highByte w).toNat = w.toNat / 256 := by
  have := w.isLt
  simp only [highByte, BitVec.extractLsb'_toNat, Nat.shiftRight_eq_div_pow]
  omega

@[simp] theorem joinBytes_high_low (w : Word) : joinBytes (highByte w) (lowByte w) = w := by
  apply BitVec.eq_of_toNat_eq
  rw [joinBytes_toNat, highByte_toNat, lowByte_toNat]
  omega

namespace Machine

@[simp] theorem Regs.get_set_same (g : Regs) (r : Reg16) (v : Word) : (g.set r v).get r = v := by
  cases r <;> rfl

theorem Regs.get_set_ne (g : Regs) {r r' : Reg16} (v : Word) (h : r' ≠ r) :
    (g.set r v).get r' = g.get r' := by
  cases r <;> cases r' <;> first | rfl | exact absurd rfl h

@[simp] theorem Segs.get_set_same (g : Segs) (r : SReg) (v : Word) : (g.set r v).get r = v := by
  cases r <;> rfl

theorem Segs.get_set_ne (g : Segs) {r r' : SReg} (v : Word) (h : r' ≠ r) :
    (g.set r v).get r' = g.get r' := by
  cases r <;> cases r' <;> first | rfl | exact absurd rfl h

@[simp] theorem State.r16_setR16_same (s : State) (r : Reg16) (v : Word) :
    (s.setR16 r v).r16 r = v := Regs.get_set_same _ _ _

theorem State.r16_setR16_ne (s : State) {r r' : Reg16} (v : Word) (h : r' ≠ r) :
    (s.setR16 r v).r16 r' = s.r16 r' := Regs.get_set_ne _ _ h

@[simp] theorem State.seg_setSeg_same (s : State) (g : SReg) (v : Word) :
    (s.setSeg g v).seg g = v := Segs.get_set_same _ _ _

theorem State.seg_setSeg_ne (s : State) {g g' : SReg} (v : Word) (h : g' ≠ g) :
    (s.setSeg g v).seg g' = s.seg g' := Segs.get_set_ne _ _ h

/-- A byte write changes its own half of its word register only. -/
theorem State.r16_setR8_ne (s : State) {h : Reg8} {r : Reg16} (v : Byte) (hr : r ≠ parent h) :
    (s.setR8 h v).r16 r = s.r16 r := State.r16_setR16_ne _ _ hr

@[simp] theorem State.r8_setR8_same (s : State) (h : Reg8) (v : Byte) : (s.setR8 h v).r8 h = v := by
  unfold State.r8 State.setR8
  split <;> simp_all

theorem State.r8_setR8_ne (s : State) {h h' : Reg8} (v : Byte) (hne : h' ≠ h) :
    (s.setR8 h v).r8 h' = s.r8 h' := by
  cases h <;> cases h' <;>
    first
      | exact absurd rfl hne
      | rfl
      | simp [State.r8, State.setR8, isHigh, parent]

end Machine

end Sys2Proof
end

