-- ==== Sys2Proof/Laws/Decode.lean ====
section
/-! SUPPORT. The laws of the encoding's fields: numbers and names, a ModRM byte taken
apart, operands read back, and `decode_append`: more bytes do not change an answer. -/

namespace Sys2Proof

@[simp] theorem Reg16.ofCode_code (r : Reg16) : Reg16.ofCode r.code = r := by cases r <;> rfl

@[simp] theorem Reg16.code_ofCode : ∀ c : BitVec 3, (Reg16.ofCode c).code = c := by decide

@[simp] theorem Reg8.ofCode_code (r : Reg8) : Reg8.ofCode r.code = r := by cases r <;> rfl

@[simp] theorem Reg8.code_ofCode : ∀ c : BitVec 3, (Reg8.ofCode c).code = c := by decide

@[simp] theorem Base.ofCode_code (b : Base) : Base.ofCode b.code = b := by cases b <;> rfl

@[simp] theorem Base.code_ofCode : ∀ c : BitVec 3, (Base.ofCode c).code = c := by decide

theorem Base.ofCode_eq_bp : ∀ c : BitVec 3, Base.ofCode c = .bp ↔ c = 6 := by decide

theorem Base.code_eq_six (b : Base) : b.code = 6 ↔ b = .bp := by cases b <;> decide

@[simp] theorem SReg.ofField_field (g : SReg) : SReg.ofField g.field = some g := by cases g <;> rfl

theorem SReg.ofField_none_iff : ∀ f : BitVec 3, SReg.ofField f = none ↔ sregFieldOk f = false := by
  decide

@[simp] theorem modField_packModrm : ∀ (md : BitVec 2) (reg rm : BitVec 3),
    modField (packModrm md reg rm) = md := by decide

@[simp] theorem regField_packModrm : ∀ (md : BitVec 2) (reg rm : BitVec 3),
    regField (packModrm md reg rm) = reg := by decide

@[simp] theorem rmField_packModrm : ∀ (md : BitVec 2) (reg rm : BitVec 3),
    rmField (packModrm md reg rm) = rm := by decide

@[simp] theorem rmField_packOpcode : ∀ (top : BitVec 5) (r : BitVec 3),
    rmField (packOpcode top r) = r := by decide

set_option maxRecDepth 4000 in
theorem packModrm_fields : ∀ b : Byte, packModrm (modField b) (regField b) (rmField b) = b := by
  decide

set_option maxRecDepth 4000 in
theorem packOpcode_fields : ∀ b : Byte, packOpcode (b.extractLsb' 3 5) (rmField b) = b := by decide

@[simp] theorem Decoded.bind_ok {α β : Type} (v : α) (r : List Byte) (f : α → List Byte → Decoded β) :
    (Decoded.ok v r).bind f = f v r := rfl

@[simp] theorem Decoded.bind_bad {α β : Type} (e : DecodeError) (f : α → List Byte → Decoded β) :
    (Decoded.bad e : Decoded α).bind f = .bad e := rfl

theorem Decoded.bind_eq_ok {α β : Type} {d : Decoded α} {f : α → List Byte → Decoded β} {w : β}
    {r : List Byte} (h : d.bind f = .ok w r) : ∃ v r', d = .ok v r' ∧ f v r' = .ok w r := by
  cases d with
  | ok v r' => exact ⟨v, r', rfl, h⟩
  | bad e => simp at h

@[simp] theorem take16_encode16 (w : Word) (r : List Byte) : take16 (encode16 w ++ r) = .ok w r := by
  simp [encode16, take16]

theorem take8_eq_ok {bs r : List Byte} {v : Byte} (h : take8 bs = .ok v r) : bs = v :: r := by
  cases bs with
  | nil => simp [take8] at h
  | cons b bs => simp only [take8, Decoded.ok.injEq] at h; rw [h.1, h.2]

theorem take16_eq_ok {bs r : List Byte} {v : Word} (h : take16 bs = .ok v r) :
    bs = encode16 v ++ r := by
  match bs with
  | [] => simp [take16] at h
  | [_] => simp [take16] at h
  | lo :: hi :: rest =>
    simp only [take16, Decoded.ok.injEq] at h
    simp [encode16, ← h.1, h.2]

@[simp] theorem encode16_length (w : Word) : (encode16 w).length = 2 := rfl

@[simp] theorem MemOp.dispBytes_length (m : MemOp) : m.dispBytes.length = m.dlen := by
  cases m <;> rfl

@[simp] theorem RM.bytes_length {ρ : Type} (num : ρ → BitVec 3) (reg : BitVec 3) (rm : RM ρ) :
    (rm.bytes num reg).length = 1 + rm.dlen := by
  cases rm <;> simp [RM.bytes, RM.dlen, Nat.add_comm]

/-! ### Operands, both ways -/

/-- The bytes of a well-formed operand are read back as that operand, whatever follows. -/
theorem takeRM_bytes {ρ : Type} (name : BitVec 3 → ρ) (num : ρ → BitVec 3)
    (hn : ∀ r, name (num r) = r) (reg : BitVec 3) (rm : RM ρ) (hw : rm.wf = true)
    (rest : List Byte) :
    ∃ tl, rm.bytes num reg ++ rest = rm.modrm num reg :: tl ∧
      regField (rm.modrm num reg) = reg ∧ takeRM name (rm.modrm num reg) tl = .ok rm rest ∧
      (rm.isMem = true → modField (rm.modrm num reg) ≠ 3) := by
  cases rm with
  | reg r =>
    exact ⟨rest, by simp [RM.bytes], by simp [RM.modrm], by simp [takeRM, RM.modrm, hn],
      by simp [RM.isMem]⟩
  | mem m =>
    refine ⟨m.dispBytes ++ rest, by simp [RM.bytes], by simp [RM.modrm], ?_, ?_⟩
    · cases m with
      | direct off =>
        simp [takeRM, RM.modrm, MemOp.modBits, MemOp.rmBits, MemOp.dispBytes, takeMem]
      | indirect b =>
        have hb : ¬ b.code = 6#3 := fun h => by
          rw [(Base.code_eq_six b).mp h] at hw; simp [RM.wf, MemOp.wf] at hw
        simp [takeRM, RM.modrm, MemOp.modBits, MemOp.rmBits, MemOp.dispBytes, takeMem, hb]
      | indirect8 b d =>
        simp [takeRM, RM.modrm, MemOp.modBits, MemOp.rmBits, MemOp.dispBytes, takeMem, take8]
      | indirect16 b d =>
        simp [takeRM, RM.modrm, MemOp.modBits, MemOp.rmBits, MemOp.dispBytes, takeMem]
    · intro _; cases m <;> simp [RM.modrm, MemOp.modBits]

theorem takeMem_eq_ok {md : BitVec 2} {rm : BitVec 3} {bs rest : List Byte} {m : MemOp}
    (h3 : md ≠ 3) (h : takeMem md rm bs = .ok m rest) :
    m.wf = true ∧ md = m.modBits ∧ rm = m.rmBits ∧ bs = m.dispBytes ++ rest := by
  unfold takeMem at h
  split at h
  · split at h
    · obtain ⟨d, r, hd, h⟩ := Decoded.bind_eq_ok h
      simp only [Decoded.ok.injEq] at h
      obtain ⟨rfl, rfl⟩ := h
      exact ⟨rfl, ‹_›, ‹_›, take16_eq_ok hd⟩
    · simp only [Decoded.ok.injEq] at h
      obtain ⟨rfl, rfl⟩ := h
      refine ⟨?_, ‹_›, by simp [MemOp.rmBits], rfl⟩
      have := Base.ofCode_eq_bp rm
      simp only [MemOp.wf, bne_iff_ne]; tauto
  · split at h
    · obtain ⟨d, r, hd, h⟩ := Decoded.bind_eq_ok h
      simp only [Decoded.ok.injEq] at h
      obtain ⟨rfl, rfl⟩ := h
      exact ⟨rfl, ‹_›, by simp [MemOp.rmBits], take8_eq_ok hd⟩
    · obtain ⟨d, r, hd, h⟩ := Decoded.bind_eq_ok h
      simp only [Decoded.ok.injEq] at h
      obtain ⟨rfl, rfl⟩ := h
      have hmd : ∀ x : BitVec 2, x ≠ 0 → x ≠ 1 → x ≠ 3 → x = 2 := by decide
      exact ⟨rfl, hmd _ ‹_› ‹_› h3, by simp [MemOp.rmBits], take16_eq_ok hd⟩

/-- An operand that is read is well-formed, and its ModRM and displacement bytes are its encoding. -/
theorem takeRM_eq_ok {ρ : Type} {name : BitVec 3 → ρ} {num : ρ → BitVec 3}
    (hn : ∀ c, num (name c) = c) {modrm : Byte} {bs rest : List Byte} {rm : RM ρ}
    (h : takeRM name modrm bs = .ok rm rest) :
    rm.wf = true ∧ modrm :: bs = rm.bytes num (regField modrm) ++ rest ∧
      (modField modrm ≠ 3 → rm.isMem = true) := by
  have hp := packModrm_fields modrm
  unfold takeRM at h
  split at h
  · rename_i h3
    simp only [Decoded.ok.injEq] at h
    obtain ⟨rfl, rfl⟩ := h
    rw [h3] at hp
    exact ⟨rfl, by simpa [RM.bytes, RM.modrm, hn] using hp.symm, fun hne => absurd h3 hne⟩
  · obtain ⟨m, r, hm, h⟩ := Decoded.bind_eq_ok h
    simp only [Decoded.ok.injEq] at h
    obtain ⟨rfl, rfl⟩ := h
    obtain ⟨hw, h1, h2, hb⟩ := takeMem_eq_ok ‹_› hm
    exact ⟨hw, by simp [RM.bytes, RM.modrm, ← h1, ← h2, hp, hb], fun _ => rfl⟩

/-! ### More bytes after an answer -/

/-- The same answer with `x` left over as well. -/
def Decoded.extend {α : Type} (x : List Byte) : Decoded α → Decoded α
  | .ok v r => .ok v (r ++ x)
  | .bad e => .bad e

/-- A reader that answers does not look at bytes past those it took: with more bytes after them it
answers the same. -/
def ReadsAhead {α : Type} (f : List Byte → Decoded α) : Prop :=
  ∀ bs x, f bs = .bad .truncated ∨ f (bs ++ x) = (f bs).extend x

theorem ReadsAhead.ok {α : Type} (v : α) : ReadsAhead (Decoded.ok v) := fun _ _ => .inr rfl

theorem ReadsAhead.bad {α : Type} (e : DecodeError) : ReadsAhead (fun _ => (.bad e : Decoded α)) :=
  fun _ _ => .inr rfl

theorem ReadsAhead.take8 : ReadsAhead take8 := fun bs _ => by
  cases bs <;> simp [Sys2Proof.take8, Decoded.extend]

theorem ReadsAhead.take16 : ReadsAhead take16 := fun bs _ => by
  match bs with
  | [] => simp [Sys2Proof.take16]
  | [_] => simp [Sys2Proof.take16]
  | _ :: _ :: _ => simp [Sys2Proof.take16, Decoded.extend]

theorem ReadsAhead.bind {α β : Type} {f : List Byte → Decoded α} {g : α → List Byte → Decoded β}
    (hf : ReadsAhead f) (hg : ∀ v, ReadsAhead (g v)) : ReadsAhead fun bs => (f bs).bind g := by
  intro bs x
  show (f bs).bind g = _ ∨ (f (bs ++ x)).bind g = Decoded.extend x ((f bs).bind g)
  rcases hf bs x with h | h <;> rw [h]
  · exact .inl rfl
  · cases f bs with
    | ok v r => exact hg v r x
    | bad e => exact .inr rfl

theorem ReadsAhead.ite {α : Type} {c : Prop} [Decidable c] {f g : List Byte → Decoded α}
    (hf : ReadsAhead f) (hg : ReadsAhead g) : ReadsAhead fun bs => if c then f bs else g bs := by
  intro bs x; by_cases hc : c <;> simp only [hc, if_true, if_false]
  · exact hf bs x
  · exact hg bs x

theorem ReadsAhead.map {α β : Type} {f : List Byte → Decoded α} (hf : ReadsAhead f) (g : α → β) :
    ReadsAhead fun bs => (f bs).bind fun v r => .ok (g v) r := hf.bind fun _ => .ok _

theorem ReadsAhead.takeMem (md : BitVec 2) (rm : BitVec 3) : ReadsAhead (takeMem md rm) :=
  .ite (.ite (.map .take16 _) (.ok _)) (.ite (.map .take8 _) (.map .take16 _))

theorem ReadsAhead.takeRM {ρ : Type} (name : BitVec 3 → ρ) (modrm : Byte) :
    ReadsAhead (takeRM name modrm) := .ite (.ok _) (.map (.takeMem _ _) _)

theorem ReadsAhead.formReg {ρ : Type} (name : BitVec 3 → ρ) (mk : BitVec 3 → RM ρ → Instr) :
    ReadsAhead (formReg name mk) := .bind .take8 fun _ => .map (.takeRM _ _) _

theorem ReadsAhead.formRMImm8 {ρ : Type} (name : BitVec 3 → ρ) (mk : RM ρ → Byte → Instr) :
    ReadsAhead (formRMImm8 name mk) := .bind .take8 fun _ => .bind (.takeRM _ _) fun _ => .map .take8 _

theorem ReadsAhead.formRMImm16 {ρ : Type} (name : BitVec 3 → ρ) (mk : RM ρ → Word → Instr) :
    ReadsAhead (formRMImm16 name mk) :=
  .bind .take8 fun _ => .bind (.takeRM _ _) fun _ => .map .take16 _

/-- A reader that looks at the first byte before it chooses how to go on. -/

theorem ReadsAhead.peek {α : Type} {f : List Byte → Decoded α} (g : Byte → List Byte → Decoded α)
    (h0 : f [] = .bad .truncated) (hc : ∀ b r, f (b :: r) = g b (b :: r))
    (hg : ∀ b, ReadsAhead (g b)) : ReadsAhead f := by
  intro bs x
  cases bs with
  | nil => exact .inl h0
  | cons b r => rw [List.cons_append, hc, hc]; exact hg b (b :: r) x

theorem ReadsAhead.memOnly (op : Byte) {f : List Byte → Decoded Instr} (hf : ReadsAhead f) :
    ReadsAhead (memOnly op f) :=
  .peek (fun modrm bs => if modField modrm = 3 then .bad (.unsupportedOperand op modrm) else f bs) rfl
    (fun _ _ => rfl) fun _ => .ite (.bad _) hf

theorem ReadsAhead.decodeGroup (op : Byte) (member : BitVec 3 → Option (List Byte → Decoded Instr))
    (h : ∀ n f, member n = some f → ReadsAhead f) : ReadsAhead (decodeGroup op member) :=
  .peek (fun modrm bs => match member (regField modrm) with
      | some form => form bs
      | none => .bad (.unknownOpcode op (some modrm))) rfl (fun _ _ => rfl) fun b => by
    cases hm : member (regField b) with
    | some f => exact h _ _ hm
    | none => exact .bad _

theorem ReadsAhead.formSreg : ReadsAhead formSreg :=
  .peek (fun modrm bs => if sregFieldOk (regField modrm) then
      Sys2Proof.formReg Reg16.ofCode .movSregRm16 bs else .bad (.unsupportedOperand 0x8E modrm)) rfl
    (fun _ _ => rfl) fun _ => .ite (.formReg _ _) (.bad _)

theorem ReadsAhead.formF2 : ReadsAhead formF2 := fun bs x => by
  cases bs with
  | nil => exact .inl rfl
  | cons b r => right; simp only [Sys2Proof.formF2, List.cons_append]; split <;> rfl

theorem Handler.decode_readsAhead (h : Handler) (op : Byte) : ReadsAhead (h.decode op) := by
  cases h <;> simp only [Handler.decode]
  case movSreg => exact .formSreg
  case prefixF2 => exact .formF2
  case pushR => exact .ok _
  case popR => exact .ok _
  case ret => exact .ok _
  case scasb => exact .ok _
  case group80 | group81 | group83 | groupC6 | groupC7 | groupD0 | groupD1 =>
    refine .decodeGroup _ _ fun n f hf => ?_
    simp only [member80, member81, member83, memberC6, memberC7, memberD0, memberD1] at hf
    repeat' split at hf
    all_goals simp only [Option.some.injEq, reduceCtorEq] at hf
    all_goals subst hf
    all_goals first
      | exact .formRMImm8 _ _
      | exact .formRMImm16 _ _
      | exact .formReg _ _
      | exact .memOnly _ (.formRMImm8 _ _)
      | exact .memOnly _ (.formRMImm16 _ _)
  all_goals first
    | exact .formReg _ _
    | exact .map .take8 _
    | exact .map .take16 _

/-- What the decoder answers, other than that the bytes end too early, more bytes do not change. -/

theorem decode_append (bs x : List Byte) :
    decode bs = .bad .truncated ∨ decode (bs ++ x) = (decode bs).extend x := by
  cases bs with
  | nil => exact .inl rfl
  | cons op r =>
    simp only [decode, List.cons_append]
    cases dispatchTable op with
    | none => exact .inr rfl
    | some h => exact h.decode_readsAhead op r x

end Sys2Proof
end

