-- ==== Sys2Proof/Laws/Memory.lean ====
section
/-! SUPPORT. The laws of the image: what a store changes, and that every memory operation keeps the
canonical form. -/

namespace Sys2Proof.Machine

open Sys2Proof.Config

theorem Mem.wf_tail {c : Host.Cell} {m : Mem} (h : Mem.wf (c :: m)) : Mem.wf m :=
  ⟨h.1.of_cons, fun d hd => h.2 d (List.mem_cons_of_mem _ hd)⟩

/-- An index below every listed one reads blank. -/
theorem Mem.read_below {m : Mem} {a : Nat} (h : ∀ c ∈ m, a < c.1) : m.read a = Mem.blank := by
  induction m with
  | nil => rfl
  | cons c m ih =>
    have hc := h c (by simp)
    rw [Mem.read, if_neg (by omega)]
    exact ih fun d hd => h d (List.mem_cons_of_mem _ hd)

theorem Mem.read_above_head {c : Host.Cell} {m : Mem} (h : Mem.wf (c :: m)) :
    m.read c.1 = Mem.blank :=
  Mem.read_below fun d hd => (List.pairwise_cons.mp h.1).1 d hd

/-- Every entry of a written memory is an old one or the byte written, which is not blank. -/
theorem Mem.mem_write {m : Mem} {a : Nat} {b : Byte} {c : Host.Cell} (h : c ∈ m.write a b) :
    c ∈ m ∨ (c = (a, b) ∧ b ≠ Mem.blank) := by
  induction m with
  | nil =>
    unfold Mem.write at h
    split at h <;> simp_all
  | cons d m ih =>
    unfold Mem.write at h
    split at h
    · split at h
      · exact .inl h
      · rcases List.mem_cons.mp h with h | h
        · exact .inr ⟨h, by assumption⟩
        · exact .inl h
    · split at h
      · split at h
        · exact .inl (List.mem_cons_of_mem _ h)
        · rcases List.mem_cons.mp h with h | h
          · exact .inr ⟨h, by assumption⟩
          · exact .inl (List.mem_cons_of_mem _ h)
      · rcases List.mem_cons.mp h with h | h
        · exact .inl (by simp [h])
        · rcases ih h with h | h
          · exact .inl (List.mem_cons_of_mem _ h)
          · exact .inr h

theorem Mem.write_wf {m : Mem} (a : Nat) (b : Byte) (h : m.wf) : (m.write a b).wf := by
  refine ⟨?_, fun c hc => ?_⟩
  · induction m with
    | nil => unfold Mem.write; split <;> simp
    | cons d m ih =>
      obtain ⟨hd, hp⟩ := List.pairwise_cons.mp h.1
      unfold Mem.write
      split
      · split
        · exact h.1
        · refine List.pairwise_cons.mpr ⟨fun e he => ?_, h.1⟩
          rcases List.mem_cons.mp he with he | he
          · subst he; assumption
          · exact Nat.lt_trans ‹_› (hd e he)
      · split
        · subst_vars
          split
          · exact hp
          · exact List.pairwise_cons.mpr ⟨fun e he => hd e he, hp⟩
        · refine List.pairwise_cons.mpr ⟨fun e he => ?_, ih (Mem.wf_tail h)⟩
          rcases Mem.mem_write he with he | ⟨he, -⟩
          · exact hd e he
          · subst he; show d.1 < a; omega
  · rcases Mem.mem_write hc with hc | ⟨hc, hb⟩
    · exact h.2 c hc
    · subst hc; exact hb

/-- A store leaves every other index alone. -/
theorem Mem.read_write_ne (m : Mem) {a c : Nat} (b : Byte) (hne : c ≠ a) :
    (m.write a b).read c = m.read c := by
  induction m with
  | nil =>
    unfold Mem.write
    split
    · rfl
    · simp [Mem.read, Ne.symm hne]
  | cons d m ih =>
    unfold Mem.write
    split
    · split
      · rfl
      · simp [Mem.read, Ne.symm hne]
    · split
      · subst_vars
        split
        · simp [Mem.read, Ne.symm hne]
        · simp [Mem.read, Ne.symm hne]
      · simp [Mem.read, ih]

/-- A store is read back at its own index. -/
theorem Mem.read_write_same {m : Mem} (a : Nat) (b : Byte) (h : m.wf) :
    (m.write a b).read a = b := by
  induction m with
  | nil =>
    unfold Mem.write
    split
    · simp_all [Mem.read]
    · simp [Mem.read]
  | cons d m ih =>
    have hb := Mem.read_above_head h
    obtain ⟨hd, -⟩ := List.pairwise_cons.mp h.1
    unfold Mem.write
    split
    · split
      · have : Mem.read (d :: m) a = Mem.blank := Mem.read_below fun e he => by
          rcases List.mem_cons.mp he with he | he
          · subst he; assumption
          · exact Nat.lt_trans ‹_› (hd e he)
        rw [this]; exact Eq.symm ‹_›
      · simp [Mem.read]
    · split
      · subst_vars
        split
        · rw [hb]; exact Eq.symm ‹_›
        · simp [Mem.read]
      · have hne : d.1 ≠ a := fun e => by subst e; simp_all
        simp [Mem.read, hne, ih (Mem.wf_tail h)]

theorem Mem.write16_wf {m : Mem} (a : Nat) (v : Word) (h : m.wf) : (m.write16 a v).wf :=
  Mem.write_wf _ _ (Mem.write_wf _ _ h)

theorem Mem.mem_write16 {m : Mem} {a : Nat} {v : Word} {c : Host.Cell} (h : c ∈ m.write16 a v) :
    c ∈ m ∨ c.1 = a ∨ c.1 = a + 1 := by
  rcases Mem.mem_write h with h | ⟨h, -⟩
  · rcases Mem.mem_write h with h | ⟨h, -⟩
    · exact .inl h
    · exact .inr (.inl (by rw [h]))
  · exact .inr (.inr (by rw [h]))

/-- A word store leaves every index outside its two bytes alone. -/
theorem Mem.read_write16_ne (m : Mem) {a c : Nat} (v : Word) (h0 : c ≠ a) (h1 : c ≠ a + 1) :
    (m.write16 a v).read c = m.read c := by
  rw [Mem.write16, Mem.read_write_ne _ _ h1, Mem.read_write_ne _ _ h0]

theorem Mem.read_write16_low {m : Mem} (a : Nat) (v : Word) (h : m.wf) :
    (m.write16 a v).read a = lowByte v := by
  rw [Mem.write16, Mem.read_write_ne _ _ (by omega), Mem.read_write_same _ _ h]

theorem Mem.read_write16_high {m : Mem} (a : Nat) (v : Word) (h : m.wf) :
    (m.write16 a v).read (a + 1) = highByte v := by
  rw [Mem.write16, Mem.read_write_same _ _ (Mem.write_wf _ _ h)]

theorem Mem.mem_ofImage {a : Nat} {bs : List Byte} {c : Host.Cell} (h : c ∈ Mem.ofImage a bs) :
    a ≤ c.1 ∧ c.1 < a + bs.length ∧ c.2 ≠ Mem.blank := by
  induction bs generalizing a with
  | nil => simp [Mem.ofImage] at h
  | cons b bs ih =>
    unfold Mem.ofImage at h
    split at h
    · obtain ⟨h0, h1, h2⟩ := ih h
      exact ⟨by omega, by simp only [List.length_cons]; omega, h2⟩
    · rcases List.mem_cons.mp h with h | h
      · subst h; simp; assumption
      · obtain ⟨h0, h1, h2⟩ := ih h
        exact ⟨by omega, by simp only [List.length_cons]; omega, h2⟩

theorem Mem.ofImage_wf (a : Nat) (bs : List Byte) : (Mem.ofImage a bs).wf := by
  refine ⟨?_, fun c hc => (Mem.mem_ofImage hc).2.2⟩
  induction bs generalizing a with
  | nil => exact List.Pairwise.nil
  | cons b bs ih =>
    unfold Mem.ofImage
    split
    · exact ih _
    · exact List.pairwise_cons.mpr ⟨fun c hc => (Mem.mem_ofImage hc).1, ih _⟩

theorem Mem.writeBytes_wf {m : Mem} (a : Nat) (bs : List Byte) (h : m.wf) :
    (m.writeBytes a bs).wf := by
  induction bs generalizing m a with
  | nil => exact h
  | cons b bs ih => exact ih _ (Mem.write_wf _ _ h)

/-- The memory of `State.reset` is canonical. -/
theorem reset_mem_wf : State.reset.mem.wf := Mem.ofImage_wf _ _

@[simp] theorem Mem.bytesFrom_length (m : Mem) (a n : Nat) : (m.bytesFrom a n).length = n := by
  induction n generalizing a with
  | zero => rfl
  | succ n ih => simp [Mem.bytesFrom, ih]

/-! ### The state's accesses, each with everything it can do -/

theorem State.read8_cases (s : State) (a : Nat) :
    (s.inImage a 1 ∧ s.read8 a = .ok (s.mem.read a)) ∨
      (¬ s.inImage a 1 ∧ s.read8 a = .error (.memOutOfRange a 1)) := by
  unfold State.read8; split
  · exact .inl ⟨‹_›, rfl⟩
  · exact .inr ⟨‹_›, rfl⟩

theorem State.read16_cases (s : State) (a : Nat) :
    (s.inImage a 2 ∧ s.read16 a = .ok (joinBytes (s.mem.read (a + 1)) (s.mem.read a))) ∨
      (¬ s.inImage a 2 ∧ s.read16 a = .error (.memOutOfRange a 2)) := by
  unfold State.read16; split
  · exact .inl ⟨‹_›, rfl⟩
  · exact .inr ⟨‹_›, rfl⟩

theorem State.write8_cases (s : State) (a : Nat) (v : Byte) :
    (s.inImage a 1 ∧ s.write8 a v = .ok (s.setMem (s.mem.write a v))) ∨
      (¬ s.inImage a 1 ∧ s.write8 a v = .error (.memOutOfRange a 1)) := by
  unfold State.write8; split
  · exact .inl ⟨‹_›, rfl⟩
  · exact .inr ⟨‹_›, rfl⟩

theorem State.write16_cases (s : State) (a : Nat) (v : Word) :
    (s.inImage a 2 ∧ s.write16 a v = .ok (s.setMem (s.mem.write16 a v))) ∨
      (¬ s.inImage a 2 ∧ s.write16 a v = .error (.memOutOfRange a 2)) := by
  unfold State.write16; split
  · exact .inl ⟨‹_›, rfl⟩
  · exact .inr ⟨‹_›, rfl⟩

end Sys2Proof.Machine
end

