-- ==== Sys2Proof/Laws/Ops.lean ====
section
/-! SUPPORT. One lemma per shared operation that says everything it can do; proofs cite these and
do not unfold the operations. -/

namespace Sys2Proof.Machine

open Sys2Proof.Config

/-! ### Ending a handler -/

@[simp] theorem State.settle_ok (s t : State) : s.settle (.ok t) = .next t := rfl

@[simp] theorem State.settle_error (s : State) (c : Cond) : s.settle (.error c) = .next (s.raise c) := rfl

/-- A handler ends in a next state: its own, or the one of the condition it raised. -/
theorem State.settle_cases {s t : State} {r : Except Cond State} (h : s.settle r = .next t) :
    r = .ok t ∨ ∃ c, r = .error c ∧ t = s.raise c := by
  cases r with
  | ok u => simp only [State.settle_ok, Host.Outcome.next.injEq] at h; exact .inl (by rw [h])
  | error c => simp only [State.settle_error, Host.Outcome.next.injEq] at h; exact .inr ⟨c, rfl, h.symm⟩

theorem State.settle_next (s : State) (r : Except Cond State) : ∃ t, s.settle r = .next t := by
  cases r
  · exact ⟨_, rfl⟩
  · exact ⟨_, rfl⟩

/-! ### Results in sequence -/

@[simp] theorem except_map_ok {α β : Type} (f : α → β) (a : α) :
    Except.map f (.ok a : Except Cond α) = .ok (f a) := rfl

@[simp] theorem except_map_error {α β : Type} (f : α → β) (c : Cond) :
    Except.map f (.error c : Except Cond α) = .error c := rfl

@[simp] theorem except_bind_ok {α β : Type} (f : α → Except Cond β) (a : α) :
    Except.bind (.ok a) f = f a := rfl

@[simp] theorem except_bind_error {α β : Type} (f : α → Except Cond β) (c : Cond) :
    Except.bind (.error c) f = .error c := rfl

theorem except_map_cases {α β : Type} {f : α → β} {r : Except Cond α} {b : β}
    (h : Except.map f r = .ok b) : ∃ a, r = .ok a ∧ b = f a := by
  cases r with
  | ok a => exact ⟨a, rfl, by simpa using h.symm⟩
  | error c => simp at h

theorem except_bind_cases {α β : Type} {f : α → Except Cond β} {r : Except Cond α} {b : β}
    (h : Except.bind r f = .ok b) : ∃ a, r = .ok a ∧ f a = .ok b := by
  cases r with
  | ok a => exact ⟨a, rfl, by simpa using h⟩
  | error c => simp at h

/-! ### Locations -/

theorem State.readLoc8_cases (s : State) (l : Loc Reg8) :
    (∃ r, l = .reg r ∧ s.readLoc8 l = .ok (s.r8 r)) ∨ (∃ a, l = .mem a ∧ s.readLoc8 l = s.read8 a) := by
  cases l with
  | reg r => exact .inl ⟨r, rfl, rfl⟩
  | mem a => exact .inr ⟨a, rfl, rfl⟩

theorem State.readLoc16_cases (s : State) (l : Loc Reg16) :
    (∃ r, l = .reg r ∧ s.readLoc16 l = .ok (s.r16 r)) ∨
      (∃ a, l = .mem a ∧ s.readLoc16 l = s.read16 a) := by
  cases l with
  | reg r => exact .inl ⟨r, rfl, rfl⟩
  | mem a => exact .inr ⟨a, rfl, rfl⟩

/-- A byte write to a location: a register, or one byte of the image, or a range error. -/
theorem State.writeLoc8_ok {s t : State} {l : Loc Reg8} {v : Byte} (h : s.writeLoc8 l v = .ok t) :
    (∃ r, l = .reg r ∧ t = s.setR8 r v) ∨
      (∃ a, l = .mem a ∧ s.inImage a 1 ∧ t = s.setMem (s.mem.write a v)) := by
  cases l with
  | reg r => exact .inl ⟨r, rfl, by simpa [State.writeLoc8] using h.symm⟩
  | mem a =>
    rcases s.write8_cases a v with ⟨hi, he⟩ | ⟨-, he⟩
    · exact .inr ⟨a, rfl, hi, by simpa [State.writeLoc8, he] using h.symm⟩
    · simp [State.writeLoc8, he] at h

theorem State.writeLoc16_ok {s t : State} {l : Loc Reg16} {v : Word} (h : s.writeLoc16 l v = .ok t) :
    (∃ r, l = .reg r ∧ t = s.setR16 r v) ∨
      (∃ a, l = .mem a ∧ s.inImage a 2 ∧ t = s.setMem (s.mem.write16 a v)) := by
  cases l with
  | reg r => exact .inl ⟨r, rfl, by simpa [State.writeLoc16] using h.symm⟩
  | mem a =>
    rcases s.write16_cases a v with ⟨hi, he⟩ | ⟨-, he⟩
    · exact .inr ⟨a, rfl, hi, by simpa [State.writeLoc16, he] using h.symm⟩
    · simp [State.writeLoc16, he] at h

/-! ### The machine stack -/

theorem State.push16_cases (s : State) (v : Word) :
    (s.inImage (s.lin .ss (s.r16 .sp - 2).toNat) 2 ∧
      s.push16 v = .ok ((s.setR16 .sp (s.r16 .sp - 2)).setMem
        (s.mem.write16 (s.lin .ss (s.r16 .sp - 2).toNat) v))) ∨
    (¬ s.inImage (s.lin .ss (s.r16 .sp - 2).toNat) 2 ∧
      s.push16 v = .error (.memOutOfRange (s.lin .ss (s.r16 .sp - 2).toNat) 2)) :=
  State.write16_cases (s.setR16 .sp (s.r16 .sp - 2)) _ v

theorem State.pop16_cases (s : State) :
    (s.inImage (s.lin .ss (s.r16 .sp).toNat) 2 ∧
      s.pop16 = .ok (joinBytes (s.mem.read (s.lin .ss (s.r16 .sp).toNat + 1))
        (s.mem.read (s.lin .ss (s.r16 .sp).toNat)), s.setR16 .sp (s.r16 .sp + 2))) ∨
    (¬ s.inImage (s.lin .ss (s.r16 .sp).toNat) 2 ∧
      s.pop16 = .error (.memOutOfRange (s.lin .ss (s.r16 .sp).toNat) 2)) := by
  unfold State.pop16
  rcases s.read16_cases (s.lin .ss (s.r16 .sp).toNat) with ⟨h, e⟩ | ⟨h, e⟩
  · exact .inl ⟨h, by rw [e]; rfl⟩
  · exact .inr ⟨h, by rw [e]; rfl⟩

/-! ### Targets -/

theorem target_cases (next : Nat) (d : Int) :
    (0 ≤ (next : Int) + d ∧ target next d = .ok ((next : Int) + d).toNat) ∨
      ((next : Int) + d < 0 ∧ target next d = .error (.branchOutOfRange (next + d))) := by
  unfold target; split
  · exact .inr ⟨‹_›, rfl⟩
  · exact .inl ⟨by omega, rfl⟩

/-! ### Fetch -/

theorem State.fetch8_cases (s : State) :
    (s.pc < s.cfg.memSize ∧ s.fetch8 = .ok (s.mem.read s.pc, s.skip 1)) ∨
      (s.cfg.memSize ≤ s.pc ∧ s.fetch8 = .error (.fetchOutOfRange s.pc)) := by
  unfold State.fetch8; split
  · exact .inl ⟨‹_›, rfl⟩
  · exact .inr ⟨by omega, rfl⟩

/-! ### The host -/

/-- One poll of a blocking read: it completes with a byte in AL, or the core is left waiting. -/
theorem State.pollKey_cases (s : State) :
    (∃ b, s.nextKey = some b ∧
      s.pollKey = { (s.dropKey.setR8 .al b).emit [.readCharacter true b] with blocked := false }) ∨
    (s.nextKey = none ∧ s.pollKey = { s.dropKey with blocked := true }) := by
  unfold State.pollKey
  split
  · exact .inl ⟨_, ‹_›, rfl⟩
  · exact .inr ⟨‹_›, rfl⟩

/-! ### Scans -/

/-- A scan that ends, ends at the first byte that is `x` or `$`, within its fuel. -/
theorem Mem.scan_some {m : Mem} {x : Byte} {fuel a e : Nat} {hit : Bool}
    (h : m.scan x fuel a = some (e, hit)) :
    a ≤ e ∧ e < a + fuel ∧ (∀ k, a ≤ k → k < e → m.read k ≠ x ∧ m.read k ≠ Config.sentinel) ∧
      (if hit then m.read e = x else m.read e ≠ x ∧ m.read e = Config.sentinel) := by
  induction fuel generalizing a with
  | zero => simp [Mem.scan] at h
  | succ fuel ih =>
    unfold Mem.scan at h
    split at h
    · simp only [Option.some.injEq, Prod.mk.injEq] at h
      obtain ⟨rfl, rfl⟩ := h
      exact ⟨by omega, by omega, fun k _ _ => by omega, by simpa⟩
    · split at h
      · simp only [Option.some.injEq, Prod.mk.injEq] at h
        obtain ⟨rfl, rfl⟩ := h
        exact ⟨by omega, by omega, fun k _ _ => by omega, by simp_all⟩
      · obtain ⟨h1, h2, h3, h4⟩ := ih h
        refine ⟨by omega, by omega, fun k hk1 hk2 => ?_, h4⟩
        rcases Nat.eq_or_lt_of_le hk1 with rfl | hlt
        · exact ⟨‹_›, ‹_›⟩
        · exact h3 k hlt hk2

/-- A scan that fails has met neither `x` nor `$`. -/
theorem Mem.scan_none {m : Mem} {x : Byte} {fuel a : Nat} (h : m.scan x fuel a = none) :
    ∀ k, a ≤ k → k < a + fuel → m.read k ≠ x ∧ m.read k ≠ Config.sentinel := by
  induction fuel generalizing a with
  | zero => intro k _ _; omega
  | succ fuel ih =>
    unfold Mem.scan at h
    split at h
    · simp at h
    · split at h
      · simp at h
      · intro k hk1 hk2
        rcases Nat.eq_or_lt_of_le hk1 with rfl | hlt
        · exact ⟨‹_›, ‹_›⟩
        · exact ih h k hlt (by omega)

/-- The collected bytes are those from `a` on, without a `$`; found says a `$` follows them. -/
theorem Mem.collect_spec (m : Mem) (fuel a : Nat) :
    (m.collect fuel a).1 = m.bytesFrom a (m.collect fuel a).1.length ∧
    (∀ b ∈ (m.collect fuel a).1, b ≠ Config.sentinel) ∧
    (if (m.collect fuel a).2 then
      (m.collect fuel a).1.length < fuel ∧
        m.read (a + (m.collect fuel a).1.length) = Config.sentinel
     else (m.collect fuel a).1.length = fuel) := by
  induction fuel generalizing a with
  | zero => simp [Mem.collect, Mem.bytesFrom]
  | succ fuel ih =>
    unfold Mem.collect
    split
    · simpa [Mem.bytesFrom]
    · obtain ⟨h1, h2, h3⟩ := ih (a + 1)
      refine ⟨by simpa [Mem.bytesFrom] using h1, ?_, ?_⟩
      · intro b hb
        rcases List.mem_cons.mp hb with rfl | hb
        · assumption
        · exact h2 b hb
      · simp only [List.length_cons]
        split <;> rename_i hf
        · rw [if_pos hf] at h3
          exact ⟨by omega, by rw [← h3.2]; congr 1; omega⟩
        · rw [if_neg hf] at h3; omega

end Sys2Proof.Machine
end

