-- ==== Sys2Proof/Laws/Exec.lean ====
section
/-! SUPPORT. What executing an instruction can do, said once: an instruction other than INT changes
architectural state alone or raises a condition (`exec_cases`), and INT ends in one of twelve ways
(`exec_int_cases`). Then the shape of a step. -/

namespace Sys2Proof.Machine

open Sys2Proof.Config

/-! ### Instructions other than INT -/

/-- From `s` to `t` only registers, pc, flags, the call stack and the image change, the image inside
its bounds and canonical, the call stack within its bound. -/
structure ArchChange (s t : State) : Prop where
  only : t = { s with
    regs := t.regs, segs := t.segs, pc := t.pc, flags := t.flags, callStack := t.callStack,
    mem := t.mem }
  memWf : s.mem.wf → t.mem.wf
  memInside : ∀ c ∈ t.mem, c ∈ s.mem ∨ c.1 < s.cfg.memSize
  callStackBounded :
    s.callStack.length ≤ callStackDepth → t.callStack.length ≤ callStackDepth

theorem ArchChange.setR16 (s : State) (r : Reg16) (v : Word) : ArchChange s (s.setR16 r v) :=
  ⟨rfl, id, fun _ h => .inl h, id⟩

theorem ArchChange.setR8 (s : State) (h : Reg8) (v : Byte) : ArchChange s (s.setR8 h v) :=
  ⟨rfl, id, fun _ h => .inl h, id⟩

theorem ArchChange.setSeg (s : State) (g : SReg) (v : Word) : ArchChange s (s.setSeg g v) :=
  ⟨rfl, id, fun _ h => .inl h, id⟩

theorem ArchChange.skip (s : State) (n : Nat) : ArchChange s (s.skip n) :=
  ⟨rfl, id, fun _ h => .inl h, id⟩

theorem ArchChange.setPc (s : State) (n : Nat) : ArchChange s (s.setPc n) :=
  ⟨rfl, id, fun _ h => .inl h, id⟩

theorem ArchChange.setFlags (s : State) (f : Flags) : ArchChange s (s.setFlags f) :=
  ⟨rfl, id, fun _ h => .inl h, id⟩

theorem ArchChange.setZf (s : State) (z : Bool) : ArchChange s (s.setZf z) :=
  ⟨rfl, id, fun _ h => .inl h, id⟩

theorem ArchChange.write8 (s : State) (a : Nat) (v : Byte) (h : s.inImage a 1) :
    ArchChange s (s.setMem (s.mem.write a v)) :=
  ⟨rfl, fun w => Mem.write_wf _ _ w, fun _ hc => (Mem.mem_write hc).imp id fun hc => by
    rw [hc.1]; show a < _; have : a + 1 ≤ s.cfg.memSize := h; omega, id⟩

theorem ArchChange.write16 (s : State) (a : Nat) (v : Word) (h : s.inImage a 2) :
    ArchChange s (s.setMem (s.mem.write16 a v)) :=
  ⟨rfl, fun w => Mem.write16_wf _ _ w, fun _ hc => (Mem.mem_write16 hc).imp id fun hc => by
    have : a + 2 ≤ s.cfg.memSize := h; omega, id⟩

theorem ArchChange.trans {s t u : State} (h1 : ArchChange s t) (h2 : ArchChange t u) :
    ArchChange s u where
  only := by rw [h2.only, h1.only]
  memWf := h2.memWf ∘ h1.memWf
  memInside c hc := by
    have hcfg : t.cfg = s.cfg := by rw [h1.only]
    rcases h2.memInside c hc with h | h
    · exact h1.memInside c h
    · exact .inr (hcfg ▸ h)
  callStackBounded := h2.callStackBounded ∘ h1.callStackBounded

theorem ArchChange.of_writeLoc8 {s t : State} {l : Loc Reg8} {v : Byte}
    (h : s.writeLoc8 l v = .ok t) : ArchChange s t := by
  rcases State.writeLoc8_ok h with ⟨r, -, rfl⟩ | ⟨a, -, hi, rfl⟩
  · exact .setR8 _ _ _
  · exact .write8 _ _ _ hi

theorem ArchChange.of_writeLoc16 {s t : State} {l : Loc Reg16} {v : Word}
    (h : s.writeLoc16 l v = .ok t) : ArchChange s t := by
  rcases State.writeLoc16_ok h with ⟨r, -, rfl⟩ | ⟨a, -, hi, rfl⟩
  · exact .setR16 _ _ _
  · exact .write16 _ _ _ hi

theorem ArchChange.of_writeImm8 {s t : State} {op : Byte} {dst : RM8} {v : Byte}
    (h : s.writeImm8 op dst v = .ok t) : ArchChange s t := by
  cases dst with
  | reg r => simp [State.writeImm8] at h
  | mem m => exact .of_writeLoc8 (l := .mem (s.addr m)) h

theorem ArchChange.of_writeImm16 {s t : State} {op : Byte} {dst : RM16} {v : Word}
    (h : s.writeImm16 op dst v = .ok t) : ArchChange s t := by
  cases dst with
  | reg r => simp [State.writeImm16] at h
  | mem m => exact .of_writeLoc16 (l := .mem (s.addr m)) h

theorem ArchChange.of_modify8 {s t : State} {dst : RM8} {f : Byte → Byte} {n : Nat}
    (h : s.modify8 dst f n = .ok t) : ArchChange s t := by
  obtain ⟨v, -, h⟩ := except_bind_cases h
  obtain ⟨u, hu, rfl⟩ := except_map_cases h
  exact .trans (.of_writeLoc8 hu) (.skip _ _)

theorem ArchChange.of_modify16 {s t : State} {dst : RM16} {f : Word → Word} {n : Nat}
    (h : s.modify16 dst f n = .ok t) : ArchChange s t := by
  obtain ⟨v, -, h⟩ := except_bind_cases h
  obtain ⟨u, hu, rfl⟩ := except_map_cases h
  exact .trans (.of_writeLoc16 hu) (.skip _ _)

theorem ArchChange.of_jumpShort {s t : State} {taken : Bool} {rel : Byte}
    (h : s.jumpShort taken rel = .ok t) : ArchChange s t := by
  unfold State.jumpShort at h
  split at h
  · obtain ⟨n, -, rfl⟩ := except_map_cases h
    exact .setPc _ _
  · simp only [Except.ok.injEq] at h
    exact h ▸ .skip _ _

theorem ArchChange.of_scanString {s t : State} {n : Nat} (h : s.scanString n = .ok t) :
    ArchChange s t := by
  unfold State.scanString at h
  simp only at h
  split at h
  · simp at h
  · simp only [Except.ok.injEq] at h
    exact h ▸ .trans (.trans (.setZf _ _) (.setR16 _ _ _)) (.skip _ _)

theorem State.subFlags_ok (s : State) {w : Nat} (a b : BitVec w) :
    s.subFlags a b = .ok (s.setFlags (Machine.subFlags s.cfg.ofReading a b)) := rfl

/-- An instruction other than INT changes architectural state alone, or raises a condition. -/
theorem exec_cases {i : Instr} {s t : State} (hi : ∀ n, i ≠ .int n) (h : exec i s = .next t) :
    ArchChange s t ∨ ∃ c, t = s.raise c := by
  cases i <;> simp only [exec, execMovRm8R8, execMovRm16R16, execMovR8Rm8, execMovR16Rm16,
    execMovSregRm16, execMovAlMoffs8, execMovAxMoffs16, execMovR8Imm8, execMovR16Imm16,
    execMovRm8Imm8, execMovRm16Imm16, execSubR8Rm8, execSubR16Rm16, execCmpR8Rm8, execCmpR16Rm16,
    execSubRm16Imm8, execCmpRm16Imm8, execCmpRm8Imm8, execAndRm8Imm8, execAndRm16Imm16,
    execAndRm16Imm8, execShrRm8, execShrRm16, execPushR16, execPopR16, execJz, execJnz, execJl,
    execJmp, execCall, execRet, execScasb, execRepneScasb] at h
  case int => exact absurd rfl (hi _)
  case movSregRm16 =>
    split at h
    · exact .inr ⟨_, (Host.Outcome.next.inj h).symm⟩
    · rcases State.settle_cases h with h | ⟨c, -, h⟩
      · obtain ⟨v, -, rfl⟩ := except_map_cases h
        exact .inl (.trans (.setSeg _ _ _) (.skip _ _))
      · exact .inr ⟨c, h⟩
  case movR8Imm8 => exact .inl (Host.Outcome.next.inj h ▸ .trans (.setR8 _ _ _) (.skip _ _))
  case movR16Imm16 => exact .inl (Host.Outcome.next.inj h ▸ .trans (.setR16 _ _ _) (.skip _ _))
  case ret =>
    split at h
    · exact .inr ⟨_, (Host.Outcome.next.inj h).symm⟩
    · refine .inl (Host.Outcome.next.inj h ▸ ⟨rfl, id, fun _ h => .inl h, fun hl => ?_⟩)
      simp only [State.popCall, State.setPc, List.length_dropLast]; omega
  all_goals
    rcases State.settle_cases h with h | ⟨c, -, h⟩
    swap
    · exact .inr ⟨c, h⟩
    left
  case pushR16 =>
    rcases s.push16_cases (s.r16 ‹_›) with ⟨hi, e⟩ | ⟨-, e⟩ <;> rw [e] at h
    · exact Except.ok.inj h ▸ .trans (.setR16 _ _ _) (.write16 _ _ _ hi)
    · simp at h
  case popR16 =>
    rcases s.pop16_cases with ⟨-, e⟩ | ⟨-, e⟩ <;> rw [e] at h
    · exact Except.ok.inj h ▸ .trans (.setR16 _ _ _) (.setR16 _ _ _)
    · simp at h
  case call =>
    split at h
    · simp at h
    · rename_i hne
      obtain ⟨u, -, rfl⟩ := except_map_cases h
      refine ⟨rfl, id, fun _ h => .inl h, fun hl => ?_⟩
      simp only [State.pushCall, State.setPc, List.length_append, List.length_cons,
        List.length_nil]
      omega
  all_goals first
    | exact .of_modify8 h
    | exact .of_modify16 h
    | exact .of_jumpShort h
    | exact .of_scanString h
    | (obtain ⟨u, hu, rfl⟩ := except_map_cases h
       first
         | exact .trans (.of_writeLoc8 hu) (.skip _ _)
         | exact .trans (.of_writeLoc16 hu) (.skip _ _)
         | exact .trans (.of_writeImm8 hu) (.skip _ _)
         | exact .trans (.of_writeImm16 hu) (.skip _ _)
         | exact .trans (.setR8 _ _ _) (.skip _ _)
         | exact .trans (.setR16 _ _ _) (.skip _ _))
    | (obtain ⟨v, -, h⟩ := except_bind_cases h
       rw [State.subFlags_ok] at h
       first
         | (simp only [except_map_ok, Except.ok.injEq] at h
            subst h
            first
              | exact .trans (.trans (.setFlags _ _) (.setR8 _ _ _)) (.skip _ _)
              | exact .trans (.trans (.setFlags _ _) (.setR16 _ _ _)) (.skip _ _)
              | exact .trans (.setFlags _ _) (.skip _ _))
         | (simp only [except_bind_ok] at h
            obtain ⟨u, hu, rfl⟩ := except_map_cases h
            exact .trans (.trans (.setFlags _ _) (.of_writeLoc16 hu)) (.skip _ _)))

theorem ArchChange.completes {s t : State} (h : ArchChange s t) :
    t.runState = s.runState ∧ t.diag = s.diag := by rw [h.only]; exact ⟨rfl, rfl⟩

theorem ArchChange.sameBackground {s t : State} (h : ArchChange s t) : SameBackground s t := by
  rw [h.only]; constructor <;> rfl

/-- A raised condition halts the run and is reported, and nothing else changes. -/
theorem State.raise_eq_haltedWith (s : State) (c : Cond) :
    s.raise c = s.haltedWith (c.reason (s.pc - 1)) (c.event (s.pc - 1)) := rfl

theorem exec_completesOrHalts {i : Instr} {s t : State} (hi : ∀ n, i ≠ .int n)
    (h : exec i s = .next t) : CompletesOrHalts s t := by
  rcases exec_cases hi h with h | ⟨c, rfl⟩
  · exact .inl h.completes
  · exact .inr ⟨_, _, ⟨c, rfl, rfl⟩, rfl⟩

theorem State.sameBackground_haltedWith (s : State) (r : HaltReason) (d : DiagEvent) :
    SameBackground s (s.haltedWith r d) := by constructor <;> rfl

/-! ### INT -/

theorem State.dropKey_eq (s : State) :
    s.dropKey = { s with keys := s.dropKey.keys, draws := s.dropKey.draws } := by
  unfold State.dropKey; split <;> rfl

theorem State.dropClock_eq (s : State) :
    s.dropClock = { s with clocks := s.dropClock.clocks, draws := s.dropClock.draws } := by
  unfold State.dropClock; split <;> rfl

/-- The ways `INT n` ends: the state it leaves, from the handler's state `s`. -/
inductive IntOutcome (n : Byte) (s : State) : State → Prop
  | setMode (h : n = 0x10 ∧ s.r8 .ah = 0x00 ∧ s.r8 .al = s.cfg.videoSurfaceMode) :
    IntOutcome n s { s with
      pc := s.pc + 1, videoMode := true, io := s.io ++ [.activateVideoSurface] }
  | nothing : IntOutcome n s { s with pc := s.pc + 1 }
  | setCursor (h : n = 0x10 ∧ s.r8 .ah = 0x02) (c : Cursor) :
    IntOutcome n s { s with pc := s.pc + 1, cursor := c }
  | setColor (e : IoEvent) : IntOutcome n s { s with pc := s.pc + 1, io := s.io ++ [e] }
  | readDone (h : (n, s.r8 .ah) = (0x16, 0x00) ∨ (n, s.r8 .ah) = (0x21, s.cfg.dosReadNoEchoAh))
    (b : Byte) (ks : List (Option Byte)) (d : Nat) :
    IntOutcome n s { s.setR8 .al b with
      pc := s.pc + 1, io := s.io ++ [.readCharacter true b], keys := ks, draws := d,
      blocked := false }
  | readWaits (h : (n, s.r8 .ah) = (0x16, 0x00) ∨ (n, s.r8 .ah) = (0x21, s.cfg.dosReadNoEchoAh))
    (ks : List (Option Byte)) (d : Nat) :
    IntOutcome n s { s with pc := s.pc + 1, keys := ks, draws := d, blocked := true }
  | writeChar :
    IntOutcome n s { s.setR8 .al (s.r8 .dl) with
      pc := s.pc + 1, io := s.io ++ [.writeCharacter (s.r8 .dl)] }
  | writeString (es : List IoEvent) : IntOutcome n s { s with pc := s.pc + 1, io := s.io ++ es }
  | writeStringFails (h : n = 0x21 ∧ s.r8 .ah = 0x09) (es : List IoEvent) (a : Nat) :
    IntOutcome n s ({ s with io := s.io ++ es }.raise (.memOutOfRange a 1))
  | getTime (h : n = 0x21 ∧ s.r8 .ah = 0x2C) (cx dx : Word) (cs : List HostTime) (d : Nat) :
    IntOutcome n s { (s.setR16 .cx cx).setR16 .dx dx with
      pc := s.pc + 1, clocks := cs, draws := d }
  | exit (h : n = 0x21 ∧ s.r8 .ah = 0x4C) :
    IntOutcome n s { s with pc := s.pc + 1, runState := .halted (.exit (s.r8 .al)) }
  | unsupported (h : Service.find s.cfg n (s.r8 .ah) = none) :
    IntOutcome n s { s with
      pc := s.pc + 1, diag := s.diag ++ [.unsupportedInterrupt n (s.r8 .ah)] }

theorem IntOutcome.of_read {n : Byte} {s : State}
    (h : (n, s.r8 .ah) = (0x16, 0x00) ∨ (n, s.r8 .ah) = (0x21, s.cfg.dosReadNoEchoAh)) :
    IntOutcome n s (svcReadCharacter (s.skip 1)) := by
  unfold svcReadCharacter
  rcases (s.skip 1).pollKey_cases with ⟨b, -, e⟩ | ⟨-, e⟩
  · rw [e, State.dropKey_eq]; exact .readDone h b _ _
  · rw [e, State.dropKey_eq]; exact .readWaits h _ _

/-- The vector and sub-code of the services whose outcome depends on them. -/
theorem Service.find_some {p : Params} {n ah : Byte} {v : Service}
    (h : Service.find p n ah = some v) :
    (v = .setMode → n = 0x10 ∧ ah = 0x00) ∧ (v = .setCursor → n = 0x10 ∧ ah = 0x02) ∧
    (v = .getTime → n = 0x21 ∧ ah = 0x2C) ∧ (v = .exit → n = 0x21 ∧ ah = 0x4C) ∧
    (v = .readKey → n = 0x16 ∧ ah = 0x00) ∧ (v = .readNoEcho → n = 0x21 ∧ ah = p.dosReadNoEchoAh) ∧
    (v = .writeString → n = 0x21 ∧ ah = 0x09) := by
  unfold Service.find at h
  repeat' split at h
  all_goals simp only [Option.some.injEq, reduceCtorEq] at h
  all_goals subst h
  all_goals simp_all

/-- `INT n` ends in one of the ways of `IntOutcome`. -/
theorem exec_int_cases {n : Byte} {s t : State} (h : exec (.int n) s = .next t) :
    IntOutcome n s t := by
  simp only [exec, execInt] at h
  split at h
  · rename_i v hv
    obtain ⟨hMode, hCursor, hTime, hExit, hKey, hNoEcho, hString⟩ := Service.find_some hv
    rw [← Host.Outcome.next.inj h]
    cases v <;> simp only [Service.run]
    case setMode =>
      unfold svcSetMode
      split
      · exact .setMode ⟨(hMode rfl).1, (hMode rfl).2, ‹_›⟩
      · exact .nothing
    case setCursor => exact .setCursor (hCursor rfl) _
    case setColor => exact .setColor _
    case readKey => exact .of_read (.inl (by rw [(hKey rfl).1, (hKey rfl).2]))
    case readNoEcho => exact .of_read (.inr (by rw [(hNoEcho rfl).1, (hNoEcho rfl).2]))
    case writeChar => exact .writeChar
    case writeString =>
      unfold svcWriteString
      simp only
      split
      · split
        · exact .writeString _
        · exact .writeString _
      · split
        · simpa [State.pastImage] using IntOutcome.writeStringFails (n := n) (s := s)
            (hString rfl) []
            (max (s.lin .ds (s.r16 .dx).toNat) s.cfg.memSize)
        · exact .writeStringFails (hString rfl) _ _
    case getTime =>
      unfold svcGetTime
      simp only
      rw [State.dropClock_eq]
      exact .getTime (hTime rfl) _ _ _ _
    case exit => exact .exit (hExit rfl)
  · rw [← Host.Outcome.next.inj h]; exact .unsupported ‹_›

/-! ### The shape of a step -/

theorem step_of_halted {s : State} {r : HaltReason} (h : s.runState = .halted r) :
    step s = .fault (.halted r) := by simp [step, cycle, h]

theorem step_of_blocked {s : State} (h : s.runState = .running) (hb : s.blocked = true) :
    step s = .next s.pollKey := by simp [step, cycle, h, hb]

theorem step_of_running {s : State} (h : s.runState = .running) (hb : s.blocked = false) :
    step s = runInstruction s := by simp [step, cycle, h, hb]

/-- With pc in the image the instruction's bytes are decoded and run in the fetched state. -/
theorem runInstruction_inside {s : State} (h : s.pc < s.cfg.memSize) :
    runInstruction s = runFetched (s.window maxLength) s.pc s.fetched := by
  rcases s.fetch8_cases with ⟨-, e⟩ | ⟨h', -⟩
  · simp only [runInstruction, e]; rfl
  · omega

theorem runInstruction_outside {s : State} (h : s.cfg.memSize ≤ s.pc) :
    runInstruction s = .next (s.raiseAt s.pc (.fetchOutOfRange s.pc)) := by
  rcases s.fetch8_cases with ⟨h', -⟩ | ⟨-, e⟩
  · omega
  · simp only [runInstruction, e]

theorem State.window_outside {s : State} {n : Nat} (h : s.cfg.memSize ≤ s.pc) :
    s.window n = [] := by simp [State.window, Nat.sub_eq_zero_of_le h, Mem.bytesFrom]

theorem State.window_length (s : State) (n : Nat) :
    (s.window n).length = min n (s.cfg.memSize - s.pc) := by simp [State.window]

theorem Mem.bytesFrom_add (m : Mem) (n k a : Nat) :
    m.bytesFrom a (n + k) = m.bytesFrom a n ++ m.bytesFrom (a + n) k := by
  induction n generalizing a with
  | zero => simp [Mem.bytesFrom]
  | succ n ih => rw [Nat.succ_add]; simp [Mem.bytesFrom, ih, Nat.add_assoc, Nat.add_comm 1 n]

end Sys2Proof.Machine
end

