-- ==== Sys2Proof/Laws/PerInstr.lean ====
section
/-! SUPPORT. Statements about every instruction as syntax, one lemma per constructor. Family
EncodeLength: an encoding is as long as 30_encoding.md R95 says. -/

namespace Sys2Proof.Laws

/-- The encoding of `i` has the length R95 gives it. -/
def EncodeLength.Statement (i : Instr) : Prop := (encode i).length = i.length

namespace EncodeLength

/-- Format `MODRM`. -/
theorem modrm_length {ρ : Type} (op : Byte) (num : ρ → BitVec 3) (reg : BitVec 3) (rm : RM ρ) :
    (op :: rm.bytes num reg).length = 2 + rm.dlen := by
  rw [List.length_cons, RM.bytes_length]; omega

/-- Formats `MODRM_I8` and `MODRM_I16`. -/
theorem modrmImm_length {ρ : Type} (op : Byte) (num : ρ → BitVec 3) (reg : BitVec 3) (rm : RM ρ)
    (imm : List Byte) :
    (op :: (rm.bytes num reg ++ imm)).length = 2 + imm.length + rm.dlen := by
  rw [List.length_cons, List.length_append, RM.bytes_length]; omega

theorem movRm8R8 (dst : RM8) (src : Reg8) : Statement (.movRm8R8 dst src) :=
  modrm_length _ _ _ _

theorem movRm16R16 (dst : RM16) (src : Reg16) : Statement (.movRm16R16 dst src) :=
  modrm_length _ _ _ _

theorem movR8Rm8 (dst : Reg8) (src : RM8) : Statement (.movR8Rm8 dst src) :=
  modrm_length _ _ _ _

theorem movR16Rm16 (dst : Reg16) (src : RM16) : Statement (.movR16Rm16 dst src) :=
  modrm_length _ _ _ _

theorem movSregRm16 (dst : BitVec 3) (src : RM16) : Statement (.movSregRm16 dst src) :=
  modrm_length _ _ _ _

theorem movAlMoffs8 (off : Word) : Statement (.movAlMoffs8 off) := rfl

theorem movAxMoffs16 (off : Word) : Statement (.movAxMoffs16 off) := rfl

theorem movR8Imm8 (dst : Reg8) (imm : Byte) : Statement (.movR8Imm8 dst imm) := rfl

theorem movR16Imm16 (dst : Reg16) (imm : Word) : Statement (.movR16Imm16 dst imm) := rfl

theorem movRm8Imm8 (dst : RM8) (imm : Byte) : Statement (.movRm8Imm8 dst imm) :=
  modrmImm_length _ _ _ _ _

theorem movRm16Imm16 (dst : RM16) (imm : Word) : Statement (.movRm16Imm16 dst imm) :=
  modrmImm_length _ _ _ _ _

theorem subR8Rm8 (dst : Reg8) (src : RM8) : Statement (.subR8Rm8 dst src) :=
  modrm_length _ _ _ _

theorem subR16Rm16 (dst : Reg16) (src : RM16) : Statement (.subR16Rm16 dst src) :=
  modrm_length _ _ _ _

theorem cmpR8Rm8 (lhs : Reg8) (rhs : RM8) : Statement (.cmpR8Rm8 lhs rhs) :=
  modrm_length _ _ _ _

theorem cmpR16Rm16 (lhs : Reg16) (rhs : RM16) : Statement (.cmpR16Rm16 lhs rhs) :=
  modrm_length _ _ _ _

theorem subRm16Imm8 (dst : RM16) (imm : Byte) : Statement (.subRm16Imm8 dst imm) :=
  modrmImm_length _ _ _ _ _

theorem cmpRm16Imm8 (lhs : RM16) (imm : Byte) : Statement (.cmpRm16Imm8 lhs imm) :=
  modrmImm_length _ _ _ _ _

theorem cmpRm8Imm8 (lhs : RM8) (imm : Byte) : Statement (.cmpRm8Imm8 lhs imm) :=
  modrmImm_length _ _ _ _ _

theorem andRm8Imm8 (dst : RM8) (imm : Byte) : Statement (.andRm8Imm8 dst imm) :=
  modrmImm_length _ _ _ _ _

theorem andRm16Imm16 (dst : RM16) (imm : Word) : Statement (.andRm16Imm16 dst imm) :=
  modrmImm_length _ _ _ _ _

theorem andRm16Imm8 (dst : RM16) (imm : Byte) : Statement (.andRm16Imm8 dst imm) :=
  modrmImm_length _ _ _ _ _

theorem shrRm8 (dst : RM8) : Statement (.shrRm8 dst) := modrm_length _ _ _ _

theorem shrRm16 (dst : RM16) : Statement (.shrRm16 dst) := modrm_length _ _ _ _

theorem pushR16 (src : Reg16) : Statement (.pushR16 src) := rfl

theorem popR16 (dst : Reg16) : Statement (.popR16 dst) := rfl

theorem jz (rel : Byte) : Statement (.jz rel) := rfl

theorem jnz (rel : Byte) : Statement (.jnz rel) := rfl

theorem jl (rel : Byte) : Statement (.jl rel) := rfl

theorem jmp (rel : Byte) : Statement (.jmp rel) := rfl

theorem call (rel : Word) : Statement (.call rel) := rfl

theorem ret : Statement .ret := rfl

theorem scasb : Statement .scasb := rfl

theorem repneScasb : Statement .repneScasb := rfl

theorem int (vector : Byte) : Statement (.int vector) := rfl

end EncodeLength

end Sys2Proof.Laws
end

