-- ==== Sys2Proof/Machine/Debug.lean ====
section
/-! DEFINITION. The read-only accessors the core offers the debugger (60_exceptions.md R365). A
pause between steps changes no state (R366), so nothing else of the debugger is modelled. -/

namespace Sys2Proof.Machine

def State.debugIp (s : State) : Nat := s.pc

def State.debugOpcode (s : State) : Byte := s.curOpcode

def State.debugCount (s : State) : Nat := s.instrCount

/-- `Mem[a .. a+k-1]`, as far as the image goes. -/
def State.debugWindow (s : State) (a k : Nat) : List Byte :=
  s.mem.bytesFrom a (min k (s.cfg.memSize - a))

end Sys2Proof.Machine
end

