-- ==== Sys2Proof/Tests/Slice0.lean ====
section
/-! SUPPORT. Tests: expected values are those of the rules and vectors of the spec, worked by hand
(95_test_vectors.md S1 to S9 and T1 to T9, and the examples in the rules named). Then, for every
obligation with hypotheses, a witness that meets them. -/

namespace Sys2Proof.Tests

open Sys2Proof Sys2Proof.Machine Sys2Proof.Config

/-! ### Well-formedness: each check refuses an ill-formed term -/

theorem test_wf_refuses_bp_alone :
    (Instr.movRm8R8 (.mem (.indirect .bp)) .al).wf = false := by decide

theorem test_wf_refuses_immediate_to_register :
    (Instr.movRm8Imm8 (.reg .al) 0x12).wf = false ∧
      (Instr.movRm16Imm16 (.reg .ax) 0x1234).wf = false := by decide

theorem test_wf_refuses_segment_six_and_seven :
    (Instr.movSregRm16 6 (.reg .ax)).wf = false ∧ (Instr.movSregRm16 7 (.reg .ax)).wf = false := by
  decide

/-! ### Decoding: one word of the spec's encoding per constructor -/

/-- R180: `88 07`. -/
theorem test_decode_movRm8R8 :
    decode [0b10001000, 0b00_000_111] =
      .ok (.movRm8R8 (.mem (.indirect .bx)) .al) [] := by decide

/-- R181: `89 46 FE`. -/
theorem test_decode_movRm16R16 :
    decode [0b10001001, 0b01_000_110, 0b11111110] =
      .ok (.movRm16R16 (.mem (.indirect8 .bp 0xFE)) .ax) [] := by decide

/-- R182: `8A 26 05 00`. -/
theorem test_decode_movR8Rm8 :
    decode [0b10001010, 0b00_100_110, 0b00000101, 0b00000000] =
      .ok (.movR8Rm8 .ah (.mem (.direct 0x0005))) [] := by decide

/-- R183: `8B 1F`. -/
theorem test_decode_movR16Rm16 :
    decode [0b10001011, 0b00_011_111] =
      .ok (.movR16Rm16 .bx (.mem (.indirect .bx))) [] := by decide

/-- R185: `8E D8`, MOV DS, AX. -/
theorem test_decode_movSregRm16 :
    decode [0b10001110, 0b11_011_000] =
      .ok (.movSregRm16 3 (.reg .ax)) [] := by decide

/-- R186: `A0 10 00`. -/
theorem test_decode_movAlMoffs8 :
    decode [0b10100000, 0b00010000, 0b00000000] =
      .ok (.movAlMoffs8 0x0010) [] := by decide

/-- T3 M8: `A1 DE 01`. -/
theorem test_decode_movAxMoffs16 :
    decode [0b10100001, 0b11011110, 0b00000001] =
      .ok (.movAxMoffs16 0x01DE) [] := by decide

/-- T3 M10: `B4 4C`. -/
theorem test_decode_movR8Imm8 :
    decode [0b10110_100, 0b01001100] =
      .ok (.movR8Imm8 .ah 0x4C) [] := by decide

/-- T3 M11: `BE 34 12`. -/
theorem test_decode_movR16Imm16 :
    decode [0b10111_110, 0b00110100, 0b00010010] =
      .ok (.movR16Imm16 .si 0x1234) [] := by decide

/-- T3 M12: `C6 06 10 00 99`. -/
theorem test_decode_movRm8Imm8 :
    decode [0b11000110, 0b00_000_110, 0b00010000, 0b00000000, 0b10011001] =
      .ok (.movRm8Imm8 (.mem (.direct 0x0010)) 0x99) [] := by decide

/-- T3 M13: `C7 87 00 01 CD AB`. -/
theorem test_decode_movRm16Imm16 :
    decode [0b11000111, 0b10_000_111, 0b00000000, 0b00000001, 0b11001101, 0b10101011] =
      .ok (.movRm16Imm16 (.mem (.indirect16 .bx 0x0100)) 0xABCD) [] := by decide

/-- R210: `2A C3`. -/
theorem test_decode_subR8Rm8 :
    decode [0b00101010, 0b11_000_011] =
      .ok (.subR8Rm8 .al (.reg .bl)) [] := by decide

/-- R211: `2B 06 00 00`. -/
theorem test_decode_subR16Rm16 :
    decode [0b00101011, 0b00_000_110, 0b00000000, 0b00000000] =
      .ok (.subR16Rm16 .ax (.mem (.direct 0x0000))) [] := by decide

/-- R212: `3A 07`. -/
theorem test_decode_cmpR8Rm8 :
    decode [0b00111010, 0b00_000_111] =
      .ok (.cmpR8Rm8 .al (.mem (.indirect .bx))) [] := by decide

/-- R213: `3B C1`. -/
theorem test_decode_cmpR16Rm16 :
    decode [0b00111011, 0b11_000_001] =
      .ok (.cmpR16Rm16 .ax (.reg .cx)) [] := by decide

/-- R214: `83 E9 01`. -/
theorem test_decode_subRm16Imm8 :
    decode [0b10000011, 0b11_101_001, 0b00000001] =
      .ok (.subRm16Imm8 (.reg .cx) 0x01) [] := by decide

/-- R215: `83 F8 05`. -/
theorem test_decode_cmpRm16Imm8 :
    decode [0b10000011, 0b11_111_000, 0b00000101] =
      .ok (.cmpRm16Imm8 (.reg .ax) 0x05) [] := by decide

/-- R216: `80 3E 10 00 24`. -/
theorem test_decode_cmpRm8Imm8 :
    decode [0b10000000, 0b00_111_110, 0b00010000, 0b00000000, 0b00100100] =
      .ok (.cmpRm8Imm8 (.mem (.direct 0x0010)) 0x24) [] := by decide

/-- R217: `80 E4 0F`. -/
theorem test_decode_andRm8Imm8 :
    decode [0b10000000, 0b11_100_100, 0b00001111] =
      .ok (.andRm8Imm8 (.reg .ah) 0x0F) [] := by decide

/-- R218: `81 E3 F0 00`. -/
theorem test_decode_andRm16Imm16 :
    decode [0b10000001, 0b11_100_011, 0b11110000, 0b00000000] =
      .ok (.andRm16Imm16 (.reg .bx) 0x00F0) [] := by decide

/-- R219: `83 E0 FE`. -/
theorem test_decode_andRm16Imm8 :
    decode [0b10000011, 0b11_100_000, 0b11111110] =
      .ok (.andRm16Imm8 (.reg .ax) 0xFE) [] := by decide

/-- R220: `D0 E8`. -/
theorem test_decode_shrRm8 :
    decode [0b11010000, 0b11_101_000] =
      .ok (.shrRm8 (.reg .al)) [] := by decide

/-- R221: `D1 2E 00 00`. -/
theorem test_decode_shrRm16 :
    decode [0b11010001, 0b00_101_110, 0b00000000, 0b00000000] =
      .ok (.shrRm16 (.mem (.direct 0x0000))) [] := by decide

/-- S5: `53`. -/
theorem test_decode_pushR16 : decode [0b01010_011] = .ok (.pushR16 .bx) [] := by decide

/-- T5 K4: `5F`. -/
theorem test_decode_popR16 : decode [0b01011_111] = .ok (.popR16 .di) [] := by decide

/-- R260: `74 FE`. -/
theorem test_decode_jz : decode [0b01110100, 0b11111110] = .ok (.jz 0xFE) [] := by decide

/-- R261: `75 F8`. -/
theorem test_decode_jnz : decode [0b01110101, 0b11111000] = .ok (.jnz 0xF8) [] := by decide

/-- T6 J4: `7C 05`. -/
theorem test_decode_jl : decode [0b01111100, 0b00000101] = .ok (.jl 0x05) [] := by decide

/-- T6 J6: `EB 80`. -/
theorem test_decode_jmp : decode [0b11101011, 0b10000000] = .ok (.jmp 0x80) [] := by decide

/-- S9: `E8 02 00`. -/
theorem test_decode_call :
    decode [0b11101000, 0b00000010, 0b00000000] =
      .ok (.call 0x0002) [] := by decide

/-- S9: `C3`. -/
theorem test_decode_ret : decode [0b11000011] = .ok .ret [] := by decide

/-- R290: `AE`. -/
theorem test_decode_scasb : decode [0b10101110] = .ok .scasb [] := by decide

/-- R291: `F2 AE`. -/
theorem test_decode_repneScasb : decode [0b11110010, 0b10101110] = .ok .repneScasb [] := by decide

/-- R300: `CD 21`. -/
theorem test_decode_int : decode [0b11001101, 0b00100001] = .ok (.int 0x21) [] := by decide

/-- T3 M15, T4 A17 and A18, T7 Q8, T9 F1 to F3 and F6: what is not implemented is named. -/
theorem test_decode_rejects_unknown :
    decode [0xC6, 0x48, 0x05, 0x77] = .bad (.unknownOpcode 0xC6 (some 0x48)) ∧
    decode [0x80, 0xC0, 0x01] = .bad (.unknownOpcode 0x80 (some 0xC0)) ∧
    decode [0xD1, 0xE0] = .bad (.unknownOpcode 0xD1 (some 0xE0)) ∧
    decode [0xF2, 0x90] = .bad (.unknownOpcode 0xF2 none) ∧
    decode [0xFF] = .bad (.unknownOpcode 0xFF none) ∧
    decode [0xF4] = .bad (.unknownOpcode 0xF4 none) ∧
    decode [0xCF] = .bad (.unknownOpcode 0xCF none) ∧
    decode [0x2C, 0x05] = .bad (.unknownOpcode 0x2C none) := by decide

/-- T3 M6 and M14: the operand is rejected before its displacement is looked at. -/
theorem test_decode_rejects_operands :
    decode [0x8E, 0xF0] = .bad (.unsupportedOperand 0x8E 0xF0) ∧
    decode [0x8E, 0xBE] = .bad (.unsupportedOperand 0x8E 0xBE) ∧
    decode [0xC6, 0xC0, 0x12] = .bad (.unsupportedOperand 0xC6 0xC0) ∧
    decode [0xC7, 0xC0] = .bad (.unsupportedOperand 0xC7 0xC0) := by decide

/-- T9 F4 and 30_encoding.md R93: bytes that end too early. -/
theorem test_decode_truncated :
    decode [0xB8, 0x00] = .bad .truncated ∧ decode [0x80] = .bad .truncated ∧
    decode [0x8B, 0x87, 0x34] = .bad .truncated ∧ decode [] = .bad .truncated := by decide

/-- 30_encoding.md R113: a table word has its first byte most significant. -/
theorem test_decodeTableWord :
    decodeTableWord 8 0x88 = some (.movRm8R8 (.mem (.indirect .bxsi)) .al) ∧
    decodeTableWord 16 0x8328 = some (.subRm16Imm8 (.mem (.indirect .bxsi)) 0) ∧
    decodeTableWord 16 0xC700 = some (.movRm16Imm16 (.mem (.indirect .bxsi)) 0) ∧
    decodeTableWord 16 0xF2AE = some .repneScasb ∧ decodeTableWord 8 0xFF = none := by decide

/-! ### One step -/

/-- The conventions of 95_test_vectors.md with `code` at index 20h. -/
def lab (code : List Byte) : State :=
  State.boot Params.default
    { Handoff.default with image := [0x4D, 0x5A] ++ List.replicate 30 0 ++ code }

/-- `bytes` in the image from `a` on. -/
def poke (s : State) (a : Nat) (bytes : List Byte) : State := s.setMem (s.mem.writeBytes a bytes)

/-- CF, ZF, SF and OF as given. -/
def flagged (s : State) (c z n o : Bool) : State := s.setFlags ⟨c, z, n, o⟩

/-- What `f` reads in the state after one step. -/
def seen {α : Type} (s : State) (f : State → α) : Option α :=
  match step s with
  | .next t => some (f t)
  | .fault _ => none
  | .refused _ => none

/-- CF, ZF, SF and OF. -/
def bits (s : State) : List Bool := [s.flag .cf, s.flag .zf, s.flag .sf, s.flag .of]

/-- T3 M1. -/
theorem test_movRm8R8 :
    seen (((lab [0x88, 0x07]).setR16 .bx 0x0010).setR16 .ax 0x00AA)
      (fun t => (t.mem.read 0x30, t.pc)) =
      some (0xAA, 0x22) := by decide

/-- T3 M2. -/
theorem test_movRm16R16 :
    seen (((lab [0x89, 0x47, 0x02]).setR16 .bx 0x0010).setR16 .ax 0xBEEF)
      (fun t => (t.mem.read 0x32, t.mem.read 0x33, t.pc)) =
      some (0xEF, 0xBE, 0x23) := by decide

/-- T3, R181: the BP operand is in DS, not SS. -/
theorem test_movRm16R16_bp_in_ds :
    seen (((((lab [0x89, 0x46, 0xFE]).setR16 .bp 0x0100).setR16 .ax 0x1234).setSeg .ss 0x0001))
      (fun t => (t.mem.read 0x11E, t.mem.read 0x11F)) =
      some (0x34, 0x12) := by decide

/-- T3 M3. -/
theorem test_movR8Rm8 :
    seen ((poke (lab [0x8A, 0x26, 0x05, 0x00]) 0x25 [0x7F]).setR16 .ax 0x0011)
      (fun t => (t.r16 .ax, t.pc)) =
      some (0x7F11, 0x24) := by decide

/-- T3 M4. -/
theorem test_movR16Rm16 :
    seen ((poke (lab [0x8B, 0x1F]) 0x30 [0xCD, 0xAB]).setR16 .bx 0x0010)
      (fun t => (t.r16 .bx, t.pc)) =
      some (0xABCD, 0x22) := by decide

/-- T1: BX = FFFFh with disp8 = 1 gives offset 0, DS = 1. -/
theorem test_movR16Rm16_wraps :
    seen (((poke (lab [0x8B, 0x47, 0x01]) 0x30 [0xCD, 0xAB]).setR16 .bx 0xFFFF).setSeg .ds 0x0001)
      (fun t => t.r16 .ax) =
      some 0xABCD := by decide

/-- T3 M5. -/
theorem test_movSregRm16 :
    seen ((lab [0x8E, 0xD8]).setR16 .ax 0x0002) (fun t => (t.seg .ds, t.pc)) =
      some (0x0002, 0x22) := by decide

/-- T3 M6. -/
theorem test_movSregRm16_six :
    seen (lab [0x8E, 0xF0]) (fun t => (t.runState, t.pc)) =
      some (.halted (.unsupportedOperand 0x20 0x8E 0xF0), 0x21) := by decide

/-- T3 M7. -/
theorem test_movAlMoffs8 :
    seen ((poke (lab [0xA0, 0x10, 0x00]) 0x30 [0x5A]).setR16 .ax 0x1100)
      (fun t => (t.r16 .ax, t.pc)) =
      some (0x115A, 0x23) := by decide

/-- T3 M8. -/
theorem test_movAxMoffs16 :
    seen (poke (lab [0xA1, 0xDE, 0x01]) 0x1FE [0x34, 0x12]) (fun t => (t.r16 .ax, t.pc)) =
      some (0x1234, 0x23) := by decide

/-- T3 M9. -/
theorem test_movAxMoffs16_outside :
    seen ((lab [0xA1, 0xDF, 0x01]).setR16 .ax 0x5555) (fun t => (t.runState, t.r16 .ax, t.pc)) =
      some (.halted (.memOutOfRange 0x20 0x1FF 2), 0x5555, 0x21) := by decide

/-- T3 M10. -/
theorem test_movR8Imm8 :
    seen ((lab [0xB4, 0x4C]).setR16 .ax 0x0011) (fun t => (t.r16 .ax, t.pc)) =
      some (0x4C11, 0x22) := by decide

/-- T3 M11. -/
theorem test_movR16Imm16 :
    seen (lab [0xBE, 0x34, 0x12]) (fun t => (t.r16 .si, t.pc)) =
      some (0x1234, 0x23) := by decide

/-- T3 M12. -/
theorem test_movRm8Imm8 :
    seen (lab [0xC6, 0x06, 0x10, 0x00, 0x99]) (fun t => (t.mem.read 0x30, t.pc)) =
      some (0x99, 0x25) := by decide

/-- T3 M14. -/
theorem test_movRm8Imm8_register :
    seen (lab [0xC6, 0xC0, 0x12]) (fun t => (t.runState, t.pc)) =
      some (.halted (.unsupportedOperand 0x20 0xC6 0xC0), 0x21) := by decide

/-- T3 M13. -/
theorem test_movRm16Imm16 :
    seen ((lab [0xC7, 0x87, 0x00, 0x01, 0xCD, 0xAB]).setR16 .bx 0x0010)
      (fun t => (t.mem.read 0x130, t.mem.read 0x131, t.pc)) =
      some (0xCD, 0xAB, 0x26) := by decide

/-- T4 A1. -/
theorem test_subR8Rm8 :
    seen (flagged ((lab [0x2A, 0xC0]).setR16 .ax 0x1234) true false true true)
      (fun t => (t.r16 .ax, bits t)) =
      some (0x1200, [false, true, false, false]) := by decide

/-- R210: 10h - 01h borrows from the nibble only. -/
theorem test_subR8Rm8_nibble :
    seen (((lab [0x2A, 0xC3]).setR16 .ax 0x0010).setR16 .bx 0x0001) (fun t => (t.r16 .ax, bits t)) =
      some (0x000F, [true, false, false, false]) := by decide

/-- T4 A3. -/
theorem test_subR16Rm16 :
    seen (((poke (lab [0x2B, 0x07]) 0x30 [0x03, 0x00]).setR16 .ax 0x0005).setR16 .bx 0x0010)
      (fun t => (t.r16 .ax, bits t)) =
      some (0x0002, [false, false, false, false]) := by decide

/-- T2: 0000 - 8000. -/
theorem test_subR16Rm16_sign :
    seen ((lab [0x2B, 0xC3]).setR16 .bx 0x8000) (fun t => (t.r16 .ax, bits t)) =
      some (0x8000, [false, false, true, true]) := by decide

/-- T4 A4. -/
theorem test_cmpR8Rm8 :
    seen ((lab [0x3A, 0xC4]).setR16 .ax 0x0503) (fun t => (t.r16 .ax, bits t)) =
      some (0x0503, [true, false, true, true]) := by decide

/-- T2: FF - 00 sets SF alone. -/
theorem test_cmpR8Rm8_ff_00 :
    seen ((lab [0x3A, 0xC4]).setR16 .ax 0x00FF) (bits) =
      some [false, false, true, false] := by decide

/-- T4 A5. -/
theorem test_cmpR16Rm16 :
    seen (((lab [0x3B, 0xD8]).setR16 .ax 0x7777).setR16 .bx 0x7777) (fun t => (t.r16 .bx, bits t)) =
      some (0x7777, [false, true, false, false]) := by decide

/-- T4 A6. -/
theorem test_subRm16Imm8 :
    seen ((lab [0x83, 0xE8, 0xFF]).setR16 .ax 0x0001) (fun t => (t.r16 .ax, bits t, t.pc)) =
      some (0x0002, [true, false, false, true], 0x23) := by decide

/-- T4 A8. -/
theorem test_subRm16Imm8_borrow :
    seen (lab [0x83, 0xE9, 0x01]) (fun t => (t.r16 .cx, bits t)) =
      some (0xFFFF, [true, false, true, true]) := by decide

/-- T4 A7. -/
theorem test_cmpRm16Imm8 :
    seen ((lab [0x83, 0xF8, 0x80]).setR16 .ax 0xFF80) (fun t => (t.r16 .ax, bits t)) =
      some (0xFF80, [false, true, false, false]) := by decide

/-- T4 A9. -/
theorem test_cmpRm8Imm8 :
    seen (poke (lab [0x80, 0x3E, 0x10, 0x00, 0x41]) 0x30 [0x41]) (fun t => (bits t, t.pc)) =
      some ([false, true, false, false], 0x25) := by decide

/-- T4 A10. -/
theorem test_andRm8Imm8 :
    seen (flagged ((lab [0x80, 0xE4, 0x0F]).setR16 .ax 0x5A3C) true true false false)
      (fun t => (t.r16 .ax, bits t)) =
      some (0x0A3C, [true, true, false, false]) := by decide

/-- T4 A11. -/
theorem test_andRm8Imm8_memory :
    seen (poke (lab [0x80, 0x26, 0x10, 0x00, 0x00]) 0x30 [0xFF])
      (fun t => (t.mem.read 0x30, bits t, t.pc)) =
      some (0x00, [false, false, false, false], 0x25) := by decide

/-- T4 A12. -/
theorem test_andRm16Imm16 :
    seen ((lab [0x81, 0xE0, 0xF0, 0x0F]).setR16 .ax 0x1234) (fun t => (t.r16 .ax, t.pc)) =
      some (0x0230, 0x24) := by decide

/-- T4 A13. -/
theorem test_andRm16Imm8 :
    seen ((lab [0x83, 0xE0, 0xF0]).setR16 .ax 0x1234) (fun t => (t.r16 .ax, bits t)) =
      some (0x1230, [false, false, false, false]) := by decide

/-- T4 A14. -/
theorem test_shrRm8 :
    seen ((lab [0xD0, 0xE8]).setR16 .ax 0x0081) (fun t => (t.r16 .ax, bits t)) =
      some (0x0040, [false, false, false, false]) := by decide

/-- T4 A15. -/
theorem test_shrRm16 :
    seen ((lab [0xD1, 0xE8]).setR16 .ax 0xFFFF) (fun t => t.r16 .ax) =
      some 0x7FFF := by decide

/-- T4 A16. -/
theorem test_shrRm16_memory :
    seen ((poke (lab [0xD1, 0x2F]) 0x30 [0x01, 0x80]).setR16 .bx 0x0010)
      (fun t => (t.mem.read 0x30, t.mem.read 0x31)) =
      some (0x00, 0x40) := by decide

/-- T5 K2. -/
theorem test_pushR16_sp :
    seen ((lab [0x54]).setR16 .sp 0x0100)
      (fun t => (t.r16 .sp, t.mem.read 0x11E, t.mem.read 0x11F, t.pc)) =
      some (0x00FE, 0x00, 0x01, 0x21) := by decide

/-- T5 K5. -/
theorem test_pushR16_outside :
    seen ((lab [0x50]).setR16 .ax 0x1234) (fun t => (t.runState, t.r16 .sp, t.pc)) =
      some (.halted (.memOutOfRange 0x20 0x1001E 2), 0x0000, 0x21) := by decide

/-- T5 K4. -/
theorem test_popR16 :
    seen ((poke (lab [0x5F]) 0x11E [0x78, 0x56]).setR16 .sp 0x00FE)
      (fun t => (t.r16 .di, t.r16 .sp)) =
      some (0x5678, 0x0100) := by decide

/-- T5 K3. -/
theorem test_popR16_sp :
    seen ((poke (lab [0x5C]) 0x120 [0x34, 0x12]).setR16 .sp 0x0100) (fun t => t.r16 .sp) =
      some 0x1234 := by decide

/-- S6. -/
theorem test_jz :
    seen (flagged (lab [0x74, 0xFE]) false true false false) ((·.pc)) =
      some 0x20 := by decide

/-- T6 J9. -/
theorem test_jz_not_taken :
    seen (lab [0x74, 0x80]) ((·.pc)) =
      some 0x22 := by decide

/-- T6 J3. -/
theorem test_jnz :
    seen (lab [0x75, 0x05]) ((·.pc)) =
      some 0x27 := by decide

/-- T6 J4. -/
theorem test_jl :
    seen (flagged (lab [0x7C, 0x05]) false false true false) ((·.pc)) =
      some 0x27 := by decide

/-- T6 J5. -/
theorem test_jl_equal :
    seen (flagged (lab [0x7C, 0x05]) false false true true) ((·.pc)) =
      some 0x22 := by decide

/-- T6 J8. -/
theorem test_jmp_back :
    seen (lab [0xEB, 0x80]) (fun t => (t.runState, t.pc)) =
      some (.halted (.branchOutOfRange 0x20 (-94)), 0x21) := by decide

/-- T6 J7, at 20h. -/
theorem test_jmp :
    seen (lab [0xEB, 0x7F]) ((·.pc)) =
      some 0xA1 := by decide

/-- S9. -/
theorem test_call :
    seen (lab [0xE8, 0x02, 0x00, 0xB4, 0x4C, 0xC3]) (fun t => (t.pc, t.callStack)) =
      some (0x25, [0x23]) := by decide

/-- T6 J11. -/
theorem test_call_back :
    seen (lab [0xE8, 0x00, 0xFF]) (fun t => (t.runState, t.callStack, t.pc)) =
      some (.halted (.branchOutOfRange 0x20 (-221)), [], 0x21) := by decide

/-- T6 J14. -/
theorem test_ret :
    seen ((lab [0xC3]).pushCall 0x55) (fun t => (t.pc, t.callStack)) =
      some (0x55, []) := by decide

/-- T6 J15. -/
theorem test_ret_empty :
    seen (lab [0xC3]) (fun t => (t.runState, t.pc)) =
      some (.halted (.callStackUnderflow 0x20), 0x21) := by decide

/-- T7 Q2. -/
theorem test_scasb :
    seen (((poke (lab [0xAE]) 0x30 [0x61, 0x62, 0x24]).setR16 .di 0x0010).setR16 .ax 0x007A)
      (fun t => (t.flag .zf, t.r16 .di, t.pc)) =
      some (false, 0x0013, 0x21) := by decide

/-- T7 Q3. -/
theorem test_scasb_dollar :
    seen (((poke (lab [0xAE]) 0x30 [0x61, 0x62, 0x24]).setR16 .di 0x0010).setR16 .ax 0x0024)
      (fun t => (t.flag .zf, t.r16 .di)) =
      some (true, 0x0013) := by decide

/-- T7 Q7. -/
theorem test_repneScasb :
    seen (((poke (lab [0xF2, 0xAE]) 0x30 [0x61, 0x62, 0x63, 0x24]).setR16 .di 0x0010).setR16 .ax 0x0063)
      (fun t => (t.flag .zf, t.r16 .di, t.pc, t.instrCount)) =
      some (true, 0x0013, 0x22, 1) := by decide

/-- S7. -/
theorem test_int_write_character :
    seen (((lab [0xCD, 0x21]).setR16 .ax 0x0200).setR16 .dx 0x0041)
      (fun t => (t.io, t.r16 .ax, t.pc)) =
      some ([.writeCharacter 0x41], 0x0241, 0x22) := by decide

/-- T8 I10. -/
theorem test_int_write_string_no_end :
    seen (((poke (lab [0xCD, 0x21]) 0x1FD [0x78, 0x79, 0x7A]).setR16 .ax 0x0900).setR16 .dx 0x01DD)
      (fun t => (t.io, t.runState, t.pc)) =
      some ([.writeCharacter 0x78, .writeCharacter 0x79, .writeCharacter 0x7A],
      .halted (.memOutOfRange 0x20 0x200 1), 0x21) := by decide

/-! ### The services, one step each -/

/-- T8 I1. -/
theorem test_service_set_mode :
    seen ((lab [0xCD, 0x10]).setR16 .ax 0x0013) (fun t => (t.io, t.videoMode)) =
      some ([.activateVideoSurface], true) := by decide

/-- T8 I3. -/
theorem test_service_set_cursor :
    seen (((lab [0xCD, 0x10]).setR16 .ax 0x0200).setR16 .dx 0x0A05) (fun t => (t.cursor, t.io)) =
      some (⟨0x0A, 0x05, 0x00⟩, []) := by decide

/-- T8 I4. -/
theorem test_service_set_color :
    seen (((lab [0xCD, 0x10]).setR16 .ax 0x0B00).setR16 .bx 0x0001) ((·.io)) =
      some [.setBackgroundColor 0x01] := by decide

/-- T8 I5. -/
theorem test_service_read_key :
    seen ({ lab [0xCD, 0x16] with keys := [some 0x79] }) (fun t => (t.r16 .ax, t.io)) =
      some (0x0079, [.readCharacter true 0x79]) := by decide

/-- T8 I6. -/
theorem test_service_read_no_echo :
    seen ({ (lab [0xCD, 0x21]).setR16 .ax 0x0800 with keys := [some 0x0D] }) ((·.r16 .ax)) =
      some 0x080D := by decide

/-- T8 I9. -/
theorem test_service_write_batch :
    seen ({ (poke (lab [0xCD, 0x21]) 0x40 [0x48, 0x69, 0x24]).setR16 .ax 0x0900 with
      regs.dx := 0x0020, videoMode := true, cursor := ⟨3, 4, 0⟩ }) ((·.io)) =
      some [.writeBatch [0x48, 0x69] 4 3] := by decide

/-- T8 I11. -/
theorem test_service_get_time :
    seen ({ (lab [0xCD, 0x21]).setR16 .ax 0x2C00 with clocks := [⟨13, 45, 7, 25⟩] })
      (fun t => (t.r16 .ax, t.r16 .cx, t.r16 .dx)) =
      some (0x2C00, 0x0D2D, 0x0719) := by decide

/-- T8 I12. -/
theorem test_service_exit :
    seen ((lab [0xCD, 0x21]).setR16 .ax 0x4C07) (fun t => (t.runState, t.pc, t.diag)) =
      some (.halted (.exit 0x07), 0x22, []) := by decide

/-- T8 I13. -/
theorem test_service_unsupported :
    seen (lab [0xCD, 0x20]) (fun t => (t.diag, t.runState, t.pc)) =
      some ([.unsupportedInterrupt 0x20 0x00], .running, 0x22) := by decide

/-- 60_exceptions.md R361: no byte yet. -/
theorem test_service_blocked :
    seen ({ lab [0xCD, 0x16] with keys := [none] }) (fun t => (t.blocked, t.pc, t.r16 .ax)) =
      some (true, 0x22, 0x0000) := by decide

/-! ### The loop -/

/-- T9 F1, F4, F5: unknown opcode, a fetch that fails inside an instruction, one that fails at once. -/
theorem test_step_unknown_opcode :
    seen (lab [0xFF]) (fun t => (t.runState, t.diag, t.pc, t.instrCount)) =
      some (.halted (.unknownOpcode 0xFF), [.unimplementedOpcode 0x20 0xFF none], 0x21, 1) := by decide

/-- T9 F4. -/
theorem test_step_truncated :
    seen ((poke (lab []) 0x1FF [0xB8]).setPc 0x1FF) (fun t => (t.runState, t.pc, t.instrCount)) =
      some (.halted (.fetchOutOfRange 0x1FF 0x200), 0x200, 1) := by decide

/-- T9 F5. -/
theorem test_step_past_the_image :
    seen ((lab []).setPc 0x200) (fun t => (t.runState, t.pc, t.instrCount)) =
      some (.halted (.fetchOutOfRange 0x200 0x200), 0x200, 0) := by decide

/-- 60_exceptions.md R346. -/
theorem test_step_halted :
    step ((lab [0xC3]).halt (.exit 0)) = .fault (.halted (.exit 0)) := by rfl

/-- 60_exceptions.md R361: a blocked core takes the byte and runs no instruction. -/
theorem test_step_blocked :
    seen { lab [0xC3] with blocked := true, keys := [some 0x79] }
      (fun t => (t.r16 .ax, t.blocked, t.pc, t.instrCount)) = some (0x0079, false, 0x20, 0) := by decide

/-- Log entry 9: an opcode the parameters list beyond the table is refused by name. -/
theorem test_step_extra_opcode :
    step { lab [0x90] with cfg := { Params.default with extraOpcodes := [0x90] } } =
      .refused (.extraOpcode 0x90) := by rfl

/-- Log entry 22: the host's word is the first instruction a step after reset runs. -/
theorem test_withFetchWord :
    seen (State.reset.withFetchWord 8 0xAE) (fun t => (t.curOpcode, t.pc)) = some (0xAE, 0x21) ∧
    seen (State.reset.withFetchWord 16 0xC700) (fun t => (t.curOpcode, t.pc)) =
      some (0xC7, 0x24) := by decide

/-- 41_flags.md R160, table T2 under the other reading: 3 - 5 leaves OF clear, and JL is taken. -/
theorem test_int_promote :
    subFlags .intPromote (0x03 : Byte) 0x05 = ⟨true, false, true, false⟩ ∧
    subFlags .wrap (0x00 : Byte) 0x10 = ⟨false, false, true, true⟩ ∧
    subFlags .wrap (0x0001 : Word) 0xFFFF = ⟨true, false, false, true⟩ := by decide

/-- T5: the byte push and pop, SP 0100h. -/
theorem test_push8_pop8 :
    (((lab []).setR16 .sp 0x0100).push8 0x77).toOption.map
      (fun t => (t.r16 .sp, t.mem.read 0x11F, (t.pop8).toOption.map fun p => (p.1, p.2.r16 .sp))) =
      some (0x00FF, 0x77, some (0x77, 0x0100)) := by decide

/-- S2: a resolution without commit leaves pc at the displacement, one with commit moves it by 2. -/
theorem test_resolve_commit :
    ((((lab [0x34, 0x12]).resolveRM Reg16.ofCode 0x87 false).toOption.map fun p => p.2.pc) =
      some 0x20) ∧
    (((lab [0x34, 0x12]).resolveRM Reg16.ofCode 0x87 true).toOption.map fun p => (p.1, p.2.pc)) =
      some (.mem 0x1254, 0x22) := by decide

/-- 60_exceptions.md R365. -/
theorem test_debug_accessors :
    (lab [0xB0]).debugIp = 0x20 ∧ (lab [0xB0]).debugOpcode = 0 ∧ (lab [0xB0]).debugCount = 0 ∧
    (lab [0xB0]).debugWindow 0x1F 3 = [0x00, 0xB0, 0x00] ∧ (lab []).debugWindow 0x200 3 = [] := by decide

/-! ### Witnesses: the hypotheses of each obligation, met

Each theorem gives values at which all hypotheses of the obligation it is named after hold, one for
each clause that has hypotheses of its own, at a boundary where the clause has a range. -/

theorem witness_DecodeInvertsEncode :
    (Instr.movRm16Imm16 (.mem (.indirect16 .bx 0xFFFF)) 0xABCD).wf = true ∧
    (Instr.movSregRm16 5 (.mem (.direct 0xFFFF))).wf = true := by decide

theorem witness_DecodedBytesAreTheEncoding :
    decode [0xF2, 0xAE, 0x90] = .ok .repneScasb [0x90] := by decide

theorem witness_EncodingMatchesItsRowAlone :
    (Instr.pushR16 .di).row.matches (encode (.pushR16 .ax) ++ []) = true := by decide

/-- The unsupported operands and the prefixes at the ends of their ranges. -/
theorem witness_RejectedBytesGetTheirReason :
    ((0x2C : Byte).toNat ∉ [0x2A, 0x2B, 0x3A, 0x3B, 0x50, 0x51, 0x52, 0x53, 0x54, 0x55, 0x56, 0x57,
        0x58, 0x59, 0x5A, 0x5B, 0x5C, 0x5D, 0x5E, 0x5F, 0x74, 0x75, 0x7C, 0x80, 0x81, 0x83,
        0x88, 0x89, 0x8A, 0x8B, 0x8E, 0xA0, 0xA1, 0xAE] ∧
      (0x2C : Byte).toNat ∉ [0xB0, 0xB1, 0xB2, 0xB3, 0xB4, 0xB5, 0xB6, 0xB7, 0xB8, 0xB9, 0xBA, 0xBB,
        0xBC, 0xBD, 0xBE, 0xBF, 0xC3, 0xC6, 0xC7, 0xCD, 0xD0, 0xD1, 0xE8, 0xEB, 0xF2]) ∧
    ((0xD1 : Byte).toNat ∈ [0x80, 0x81, 0x83, 0xC6, 0xC7, 0xD0, 0xD1] ∧
      ((0xD1 : Byte).toNat, (0xE0 : Byte).toNat / 8 % 8) ∉ [(0x80, 4), (0x80, 7), (0x81, 4),
        (0x83, 4), (0x83, 5), (0x83, 7), (0xC6, 0), (0xC7, 0), (0xD0, 5), (0xD1, 5)]) ∧
    (0xAF : Byte) ≠ 0xAE ∧
    ((0xC0 : Byte).toNat / 64 = 3 ∧ (0xC0 : Byte).toNat / 8 % 8 = 0) ∧
    ((0xC7 : Byte).toNat / 64 = 3 ∧ (0xC7 : Byte).toNat / 8 % 8 = 0) ∧
    6 ≤ (0xF0 : Byte).toNat / 8 % 8 ∧ 6 ≤ (0x3F : Byte).toNat / 8 % 8 ∧
    Instr.repneScasb.wf = true ∧ 0 < (encode .repneScasb).length ∧
    1 < (encode .repneScasb).length := by decide

/-- The last byte of the image is a whole instruction. -/
theorem witness_StepRunsTheDecodedInstruction :
    ((poke (lab []) 0x1FF [0xC3]).setPc 0x1FF).runState = .running ∧
    ((poke (lab []) 0x1FF [0xC3]).setPc 0x1FF).blocked = false ∧
    decode (((poke (lab []) 0x1FF [0xC3]).setPc 0x1FF).window maxLength) = .ok .ret [] := by decide

theorem witness_StoredInstructionRuns :
    (lab [0xB0, 0x41]).runState = .running ∧ (lab [0xB0, 0x41]).blocked = false ∧
    (Instr.movR8Imm8 .al 0x41).wf = true ∧
    (lab [0xB0, 0x41]).pc + (Instr.movR8Imm8 .al 0x41).length ≤ (lab [0xB0, 0x41]).cfg.memSize ∧
    ∀ (k : Nat) (b : Byte), (encode (.movR8Imm8 .al 0x41))[k]? = some b →
      (lab [0xB0, 0x41]).mem.read ((lab [0xB0, 0x41]).pc + k) = b := by
  refine ⟨by decide, by decide, by decide, by decide, fun k b h => ?_⟩
  match k with
  | 0 => exact Option.some.inj h
  | 1 => exact Option.some.inj h
  | _ + 2 => simp [encode] at h

theorem witness_StepHaltsOnWhatDoesNotDecode :
    (((lab []).setPc 0x200).runState = .running ∧ ((lab []).setPc 0x200).blocked = false ∧
      ((lab []).setPc 0x200).cfg.memSize ≤ ((lab []).setPc 0x200).pc) ∧
    (((poke (lab []) 0x1FF [0xB8]).setPc 0x1FF).pc <
        ((poke (lab []) 0x1FF [0xB8]).setPc 0x1FF).cfg.memSize ∧
      decode (((poke (lab []) 0x1FF [0xB8]).setPc 0x1FF).window maxLength) = .bad .truncated) ∧
    (decode ((lab [0x90]).window maxLength) = .bad (.unknownOpcode 0x90 none) ∧
      0x90 ∉ (lab [0x90]).cfg.extraOpcodes ∧
      0x90 ∈ ({ Params.default with extraOpcodes := [0x90] } : Params).extraOpcodes) ∧
    decode ((lab [0x8E, 0xF0]).window maxLength) = .bad (.unsupportedOperand 0x8E 0xF0) := by decide

theorem witness_HaltedCoreTakesNoStep :
    ((lab []).halt (.exit 7)).runState = .halted (.exit 7) := by decide

theorem witness_BlockedCoreOnlyWaits :
    ({ lab [] with blocked := true, keys := [some 0xFF] }.runState = .running ∧
      { lab [] with blocked := true, keys := [some 0xFF] }.blocked = true ∧
      { lab [] with blocked := true, keys := [some 0xFF] }.nextKey = some 0xFF) ∧
    { lab [] with blocked := true, keys := [none] }.nextKey = none ∧ Reg8.ah ≠ .al ∧
    Reg16.cx ≠ .ax := by decide

theorem witness_EveryStepKeepsTheInvariant :
    (lab [0xB0, 0x41]).Inv ∧ ∃ t, step (lab [0xB0, 0x41]) = .next t :=
  ⟨⟨by decide, by decide, by decide, fun _ h => RunState.noConfusion h,
    fun _ h => RunState.noConfusion h⟩, _, rfl⟩

theorem witness_BootLeavesTheResetValues : 0x1FF < Params.default.memSize := by decide

theorem witness_VideoModeIsSetByOneServiceAndNeverCleared :
    (∃ t, exec .ret ({ lab [] with videoMode := true }.pushCall 0) = .next t ∧
      ({ lab [] with videoMode := true }.pushCall 0).videoMode = true) ∧
    ∃ t, exec (.int 0x10) ((lab []).setR16 .ax 0x0013) = .next t ∧ t.videoMode = true :=
  ⟨⟨_, rfl, by decide⟩, _, rfl, by decide⟩

/-- At the last index an opcode is counted, past it none. -/
theorem witness_StepsOnlyExtendTheRecords :
    (∃ t, step ((lab []).setPc 0x1FF) = .next t) ∧ ∃ t, step ((lab []).setPc 0x200) = .next t :=
  ⟨⟨_, rfl⟩, _, rfl⟩

theorem witness_FlagsSurviveOtherInstructions :
    ∃ t, exec (.andRm8Imm8 (.reg .al) 0) (lab []) = .next t ∧
      (Instr.andRm8Imm8 (.reg .al) 0).family ≠ .subCmp ∧
      (Instr.andRm8Imm8 (.reg .al) 0).family ≠ .scan :=
  ⟨_, rfl, by decide⟩

theorem witness_RunsEndForTheStatedReasons :
    (∃ t, step ((lab [0xCD, 0x21]).setR16 .ax 0x4C07) = .next t ∧
      t.runState = .halted (.exit 0x07)) ∧
    ∃ t, step (lab [0x90]) = .next t ∧ t.runState = .halted (.unknownOpcode 0x90) :=
  ⟨⟨_, rfl, by decide⟩, _, rfl, by decide⟩

theorem witness_PcAfterAnInstruction :
    (∃ t, exec (.jmp 0x80) ((lab []).setPc 0x7F) = .next t ∧ t.runState = .running) ∧
    ∃ t, exec (.int 0x21) ((lab []).setR16 .ax 0x4C07) = .next t ∧
      ∃ code, t.runState = .halted (.exit code) :=
  ⟨⟨_, rfl, by decide⟩, _, rfl, 0x07, by decide⟩

theorem witness_FaultsArePrecise :
    ∃ t, (lab [0xC3]).runState = .running ∧ step (lab [0xC3]) = .next t ∧
      t.runState = .halted (.callStackUnderflow 0x20) ∧
      ∀ code, HaltReason.callStackUnderflow 0x20 ≠ .exit code :=
  ⟨_, by decide, rfl, by decide, fun _ h => HaltReason.noConfusion h⟩

/-- Two displacement bytes that end with the image, and one byte less. -/
theorem witness_ResolverAgreesWithTheDecoder :
    takeRM Reg16.ofCode 0x87 (((lab []).setPc 0x1FE).window 2) =
      .ok (.mem (.indirect16 .bx 0x0000)) [] ∧
    takeRM Reg16.ofCode 0x87 (((lab []).setPc 0x1FF).window 2) = .bad .truncated := by decide

theorem witness_UncommittedResolutionRollsBack :
    (∃ l u, (lab [0x34, 0x12]).resolveRM Reg16.ofCode 0x87 true = .ok (l, u)) ∧
    (∃ c, ((lab []).setPc 0x1FF).resolveRM Reg16.ofCode 0x87 true = .error c) ∧
    (∃ t, (lab [0x10, 0x00, 0x99]).resolveStoreImm8 0xC6 0x06 true = .ok t) ∧
    ∃ t, (lab [0x10, 0x00, 0x99, 0xAA]).resolveStoreImm16 0xC7 0x06 true = .ok t :=
  ⟨⟨_, _, rfl⟩, ⟨_, rfl⟩, ⟨_, rfl⟩, _, rfl⟩

theorem witness_LocationsReadBackWhatWasWritten :
    (lab []).mem.wf ∧ (∃ t, (lab []).writeLoc8 (.mem 0x1FF) 0xAB = .ok t) ∧
    (∃ t, (lab []).writeLoc8 (.reg .bh) 0xAB = .ok t) ∧
    (∃ t, (lab []).writeLoc16 (.mem 0x1FE) 0xABCD = .ok t) ∧
    ∃ t, (lab []).writeLoc16 (.reg .di) 0xABCD = .ok t :=
  ⟨by decide, ⟨_, rfl⟩, ⟨_, rfl⟩, ⟨_, rfl⟩, _, rfl⟩

theorem witness_WordsAreLittleEndian :
    (lab []).mem.wf ∧ 0x1FE + 2 ≤ (lab []).cfg.memSize ∧ (lab []).cfg.memSize < 0x1FF + 2 ∧
    (0x1FD : Nat) ≠ 0x1FE ∧ (0x1FD : Nat) ≠ 0x1FE + 1 := by decide

theorem witness_ByteHalvesAliasTheirWord :
    (Reg16.bx, Reg8.bh, Reg8.bl) ∈ [(Reg16.ax, Reg8.ah, Reg8.al), (.cx, .ch, .cl), (.dx, .dh, .dl),
      (.bx, .bh, .bl)] := by decide

theorem witness_OperandOutsideTheImageHalts :
    (Instr.movAxMoffs16 0x01DF).memOperand = some (.direct 0x01DF, 2) ∧
    (lab []).cfg.memSize < (lab []).addr (.direct 0x01DF) + 2 := by decide

theorem witness_MovStoresTheRegister :
    (lab []).mem.wf ∧ (lab []).addr (.direct 0x01DF) + 1 ≤ (lab []).cfg.memSize ∧
    (lab []).addr (.direct 0x01DE) + 2 ≤ (lab []).cfg.memSize := by decide

theorem witness_MovLoadsTheRegister :
    (lab []).readLoc8 ((lab []).loc (.mem (.direct 0x01DF))) = .ok 0x00 ∧
    (lab []).readLoc16 ((lab []).loc (.mem (.direct 0x01DE))) = .ok 0x0000 ∧
    (lab []).cfg.loadOffset + 16 * ((lab []).seg .ds).toNat + (0x01DF : Word).toNat + 1 ≤
      (lab []).cfg.memSize ∧
    (lab []).cfg.loadOffset + 16 * ((lab []).seg .ds).toNat + (0x01DE : Word).toNat + 2 ≤
      (lab []).cfg.memSize :=
  ⟨rfl, rfl, by decide, by decide⟩

theorem witness_MovImmediateToMemoryOnly :
    (lab []).mem.wf ∧ (lab []).addr (.direct 0x01DF) + 1 ≤ (lab []).cfg.memSize ∧
    (lab []).addr (.direct 0x01DE) + 2 ≤ (lab []).cfg.memSize := by decide

theorem witness_MovLoadsASegmentRegister :
    (lab []).readLoc16 ((lab []).loc (.mem (.direct 0x01DE))) = .ok 0x0000 ∧
    5 < (6 : BitVec 3).toNat ∧ 5 < (7 : BitVec 3).toNat :=
  ⟨rfl, by decide, by decide⟩

theorem witness_MovChangesItsDestinationOnly :
    ∃ t, (Instr.movRm8R8 (.mem (.direct 0x01DF)) .al).family = .mov ∧
      exec (.movRm8R8 (.mem (.direct 0x01DF)) .al) (lab []) = .next t :=
  ⟨_, rfl, rfl⟩

theorem witness_SubRegisterForms :
    (lab []).readLoc8 ((lab []).loc (.mem (.direct 0x01DF))) = .ok 0x00 ∧
    (lab []).readLoc16 ((lab []).loc (.mem (.direct 0x01DE))) = .ok 0x0000 := ⟨rfl, rfl⟩

theorem witness_SubImmediateForm :
    (lab []).mem.wf ∧ (lab []).readLoc16 ((lab []).loc (.mem (.direct 0x01DE))) = .ok 0x0000 :=
  ⟨by decide, rfl⟩

theorem witness_CompareForms :
    (lab []).readLoc8 ((lab []).loc (.mem (.direct 0x01DF))) = .ok 0x00 ∧
    (lab []).readLoc16 ((lab []).loc (.mem (.direct 0x01DE))) = .ok 0x0000 := ⟨rfl, rfl⟩

theorem witness_FlagFunctionAndJl :
    0 < 1 ∧ (lab []).cfg.ofReading = .wrap ∧
    { lab [] with cfg := { Params.default with ofReading := .intPromote } }.cfg.ofReading =
      .intPromote := by decide

theorem witness_AndForms :
    (lab []).mem.wf ∧ (lab []).readLoc8 ((lab []).loc (.mem (.direct 0x01DF))) = .ok 0x00 ∧
    (lab []).readLoc16 ((lab []).loc (.mem (.direct 0x01DE))) = .ok 0x0000 :=
  ⟨by decide, rfl, rfl⟩

theorem witness_ShrForms :
    (lab []).mem.wf ∧ (lab []).readLoc8 ((lab []).loc (.mem (.direct 0x01DF))) = .ok 0x00 ∧
    (lab []).readLoc16 ((lab []).loc (.mem (.direct 0x01DE))) = .ok 0x0000 :=
  ⟨by decide, rfl, rfl⟩

theorem witness_ArithmeticChangesItsDestinationOnly :
    (∃ t, (Instr.subR8Rm8 .al (.reg .al)).family = .subCmp ∧
      exec (.subR8Rm8 .al (.reg .al)) (lab []) = .next t) ∧
    ∃ t, (Instr.shrRm16 (.mem (.direct 0x01DE))).family = .andShr ∧
      exec (.shrRm16 (.mem (.direct 0x01DE))) (lab []) = .next t :=
  ⟨⟨_, rfl, rfl⟩, _, rfl, rfl⟩

/-- The stack at the top of the image, and one byte further. -/
theorem witness_PushAndPop :
    (lab []).mem.wf ∧
    (0x1FE = (lab []).cfg.loadOffset + 16 * (((lab []).setR16 .sp 0x01E0).seg .ss).toNat +
        ((((lab []).setR16 .sp 0x01E0).r16 .sp).toNat + 65534) % 65536 ∧
      0x1FE + 2 ≤ (lab []).cfg.memSize) ∧
    (0x1FF = (lab []).cfg.loadOffset + 16 * (((lab []).setR16 .sp 0x01E1).seg .ss).toNat +
        ((((lab []).setR16 .sp 0x01E1).r16 .sp).toNat + 65534) % 65536 ∧
      (lab []).cfg.memSize < 0x1FF + 2) ∧
    (0x1FE = (lab []).cfg.loadOffset + 16 * (((lab []).setR16 .sp 0x01DE).seg .ss).toNat +
        (((lab []).setR16 .sp 0x01DE).r16 .sp).toNat) ∧
    (0x1FF = (lab []).cfg.loadOffset + 16 * (((lab []).setR16 .sp 0x01DF).seg .ss).toNat +
        (((lab []).setR16 .sp 0x01DF).r16 .sp).toNat) ∧ Reg16.ax ≠ .sp := by decide

theorem witness_PushThenPopRestoresTheRegisters :
    ((lab []).setR16 .sp 0x01E0).mem.wf ∧
    (lab []).cfg.loadOffset + 16 * (((lab []).setR16 .sp 0x01E0).seg .ss).toNat +
      ((((lab []).setR16 .sp 0x01E0).r16 .sp).toNat + 65534) % 65536 + 2 ≤
        (lab []).cfg.memSize := by decide

theorem witness_ByteStackPrimitives :
    ((lab []).setR16 .sp 0x01E0).mem.wf ∧
    (0x1FF = (lab []).cfg.loadOffset + 16 * (((lab []).setR16 .sp 0x01E0).seg .ss).toNat +
        ((((lab []).setR16 .sp 0x01E0).r16 .sp).toNat + 65535) % 65536 ∧
      0x1FF + 1 ≤ (lab []).cfg.memSize) ∧
    0x1FF = (lab []).cfg.loadOffset + 16 * (((lab []).setR16 .sp 0x01DF).seg .ss).toNat +
        (((lab []).setR16 .sp 0x01DF).r16 .sp).toNat := by decide

theorem witness_StackInstructionsChangeSpAndTheirOperandOnly :
    (∃ t, exec (.pushR16 .sp) ((lab []).setR16 .sp 0x01E0) = .next t) ∧
    ∃ t, exec (.popR16 .ax) ((lab []).setR16 .sp 0x01DE) = .next t :=
  ⟨⟨_, rfl⟩, _, rfl⟩

/-- A taken jump to index 0, one below it, and a jump not taken. -/
theorem witness_ShortJumps :
    (Instr.jmp 0x80, true) ∈ [(Instr.jz 0x80, ((lab []).setPc 0x7F).flag .zf),
      (.jnz 0x80, !((lab []).setPc 0x7F).flag .zf),
      (.jl 0x80, ((lab []).setPc 0x7F).flag .sf != ((lab []).setPc 0x7F).flag .of),
      (.jmp 0x80, true)] ∧
    (Instr.jz 0x80, false) ∈ [(Instr.jz 0x80, (lab []).flag .zf), (.jnz 0x80, !(lab []).flag .zf),
      (.jl 0x80, (lab []).flag .sf != (lab []).flag .of), (.jmp 0x80, true)] ∧
    0 ≤ (((lab []).setPc 0x7F).pc : Int) + 1 + (0x80 : Byte).toInt ∧
    (((lab []).setPc 0x7E).pc : Int) + 1 + (0x80 : Byte).toInt < 0 := by decide

theorem witness_CallPushesTheReturnIndex :
    ({ lab [] with callStack := List.replicate 255 0 }.callStack.length ≠ 256 ∧
      0 ≤ (((lab []).setPc 0x7FFE).pc : Int) + 2 + (0x8000 : Word).toInt) ∧
    (((lab []).setPc 0x7FFD).pc : Int) + 2 + (0x8000 : Word).toInt < 0 ∧
    { lab [] with callStack := List.replicate 256 0 }.callStack.length = 256 :=
  ⟨⟨fun h => absurd (List.length_replicate.symm.trans h) (by decide), by decide⟩, by decide,
    List.length_replicate⟩

theorem witness_RetPopsTheReturnIndex :
    ((lab []).pushCall 0x55).callStack = [] ++ [0x55] ∧ (lab []).callStack = [] := by decide

theorem witness_ReturnFollowsItsCall :
    ∃ t, (lab []).runState = .running ∧ exec (.call 0) ((lab []).setPc 0x21) = .next t ∧
      t.runState = .running ∧ ((lab []).pushCall 0x23).callStack = t.callStack :=
  ⟨_, by decide, rfl, by decide, by decide⟩

theorem witness_TransfersChangePcAndTheCallStackOnly :
    ∃ t, Instr.ret.family = .control ∧ exec .ret (lab []) = .next t := ⟨_, rfl, rfl⟩

/-- The scan that ends at the first byte, and the one that ends at the last byte of the image. -/
theorem witness_ScanEndsAtMatchOrSentinel :
    ((Instr.scasb, 0) ∈ [(Instr.scasb, 0), (.repneScasb, 1)] ∧
      0x20 = (lab [0x24]).cfg.loadOffset + 16 * ((lab [0x24]).seg .es).toNat +
        ((lab [0x24]).r16 .di).toNat ∧
      0x20 ≤ 0x20 ∧ 0x20 < (lab [0x24]).cfg.memSize ∧
      (∀ k, 0x20 ≤ k → k < 0x20 → (lab [0x24]).mem.read k ≠ (lab [0x24]).r8 .al ∧
        (lab [0x24]).mem.read k ≠ 0x24) ∧
      ((lab [0x24]).mem.read 0x20 = (lab [0x24]).r8 .al ∨ (lab [0x24]).mem.read 0x20 = 0x24)) ∧
    ((Instr.repneScasb, 1) ∈ [(Instr.scasb, 0), (.repneScasb, 1)] ∧
      0x1FF = (lab []).cfg.loadOffset + 16 * (((lab []).setR16 .di 0x01DF).seg .es).toNat +
        (((lab []).setR16 .di 0x01DF).r16 .di).toNat ∧
      0x1FF < (lab []).cfg.memSize ∧
      (lab []).mem.read 0x1FF = ((lab []).setR16 .di 0x01DF).r8 .al) :=
  ⟨⟨by decide, by decide, by decide, by decide, fun k _ _ => by omega, by decide⟩, by decide⟩

theorem witness_ScanPastTheImageHalts :
    0x1FF = (lab []).cfg.loadOffset + 16 * (((lab []).setR16 .di 0x01DF).seg .es).toNat +
        (((lab []).setR16 .di 0x01DF).r16 .di).toNat ∧
    ∀ k, 0x1FF ≤ k → k < (lab []).cfg.memSize →
      (lab []).mem.read k ≠ ((lab []).setR16 .ax 0x0071).r8 .al ∧ (lab []).mem.read k ≠ 0x24 := by
  refine ⟨by decide, fun k h1 h2 => ?_⟩
  have hk : k = 0x1FF := Nat.le_antisymm (Nat.lt_succ_iff.mp h2) h1
  subst hk
  decide

theorem witness_ScanChangesDiAndZfOnly :
    ∃ t, Instr.scasb.family = .scan ∧ exec .scasb (lab []) = .next t := ⟨_, rfl, rfl⟩

theorem witness_VideoServices :
    (((lab []).setR16 .ax 0x0013).r8 .ah = 0x00 ∧
      ((lab []).setR16 .ax 0x0013).r8 .al = (lab []).cfg.videoSurfaceMode) ∧
    (((lab []).setR16 .ax 0x0003).r8 .ah = 0x00 ∧
      ((lab []).setR16 .ax 0x0003).r8 .al ≠ (lab []).cfg.videoSurfaceMode) ∧
    ((lab []).setR16 .ax 0x0200).r8 .ah = 0x02 ∧ ((lab []).setR16 .ax 0x0B00).r8 .ah = 0x0B := by
  decide

theorem witness_BlockingReads :
    ((0x16 : Byte) = 0x16 ∧ (lab []).r8 .ah = 0x00) ∧
    ((0x21 : Byte) = 0x21 ∧ ((lab []).setR16 .ax 0x0800).r8 .ah = (lab []).cfg.dosReadNoEchoAh ∧
      ((lab []).setR16 .ax 0x0800).r8 .ah ∉ ([0x02, 0x09, 0x2C, 0x4C] : List Byte)) ∧
    { lab [] with keys := [some 0xFF] }.nextKey = some 0xFF ∧
    { lab [] with keys := [none] }.nextKey = none := by decide

theorem witness_WriteCharacterService :
    ((lab []).setR16 .ax 0x0200).r8 .ah = 0x02 ∧ (lab []).cfg.dosReadNoEchoAh ≠ 0x02 := by decide

/-- The empty string at the last byte of the image, and one without an end there. -/
theorem witness_WriteStringService :
    (((lab []).setR16 .ax 0x0900).r8 .ah = 0x09 ∧ (lab []).cfg.dosReadNoEchoAh ≠ 0x09) ∧
    (0x1FF = (lab []).cfg.loadOffset + 16 * (((lab []).setR16 .dx 0x01DF).seg .ds).toNat +
        (((lab []).setR16 .dx 0x01DF).r16 .dx).toNat ∧
      (∀ b ∈ ([] : List Byte), b ≠ 0x24) ∧
      (∀ (k : Nat) (b : Byte), ([] : List Byte)[k]? = some b →
        (lab []).mem.read (0x1FF + k) = b) ∧
      0x1FF + ([] : List Byte).length < (lab []).cfg.memSize ∧
      (poke (lab []) 0x1FF [0x24]).mem.read (0x1FF + ([] : List Byte).length) = 0x24) ∧
    ((∀ b ∈ ([0x00] : List Byte), b ≠ 0x24) ∧
      (∀ (k : Nat) (b : Byte), ([0x00] : List Byte)[k]? = some b →
        (lab []).mem.read (0x1FF + k) = b) ∧
      ([0x00] : List Byte).length = (lab []).cfg.memSize - 0x1FF) := by
  refine ⟨by decide, ⟨by decide, by decide, fun k b h => ?_, by decide, by decide⟩, by decide,
    fun k b h => ?_, by decide⟩
  · simp at h
  · match k with
    | 0 => exact Option.some.inj h
    | _ + 1 => simp at h

theorem witness_GetTimeService :
    ((lab []).setR16 .ax 0x2C00).r8 .ah = 0x2C ∧ (lab []).cfg.dosReadNoEchoAh ≠ 0x2C ∧
    Reg16.ax ≠ .cx ∧ Reg16.ax ≠ .dx := by decide

theorem witness_ExitService :
    ((lab []).setR16 .ax 0x4C00).r8 .ah = 0x4C ∧ (lab []).cfg.dosReadNoEchoAh ≠ 0x4C := by decide

theorem witness_UnsupportedInterruptIsOnlyDiagnosed :
    ((0x20 : Byte).toNat, ((lab []).r8 .ah).toNat) ∉ [(0x10, 0x00), (0x10, 0x02), (0x10, 0x0B),
      (0x16, 0x00), (0x21, 0x02), (0x21, (lab []).cfg.dosReadNoEchoAh.toNat), (0x21, 0x09),
      (0x21, 0x2C), (0x21, 0x4C)] := by decide

theorem witness_IntLeavesStacksFlagsAndMemoryAlone :
    (∃ t, exec (.int 0x21) ((lab []).setR16 .ax 0x0200) = .next t) ∧
    ((0x21, ((lab []).setR16 .ax 0x0200).r8 .ah) : Byte × Byte) ≠ (0x21, 0x2C) ∧
    ((0x21, ((lab []).setR16 .ax 0x0200).r8 .ah) : Byte × Byte) ≠ (0x10, 0x02) ∧
    ((0x21, ((lab []).setR16 .ax 0x0200).r8 .ah) : Byte × Byte) ≠ (0x10, 0x00) ∧
    ((0x21, ((lab []).setR16 .ax 0x0200).r8 .ah) : Byte × Byte) ≠ (0x16, 0x00) ∧
    ((0x21, ((lab []).setR16 .ax 0x0200).r8 .ah) : Byte × Byte) ≠
      (0x21, (lab []).cfg.dosReadNoEchoAh) ∧
    ((0x21, ((lab []).setR16 .ax 0x0200).r8 .ah) : Byte × Byte) ≠ (0x21, 0x4C) ∧
    ((0x21, ((lab []).setR16 .ax 0x0200).r8 .ah) : Byte × Byte) ≠ (0x21, 0x09) ∧
    ((0x21, ((lab []).setR16 .ax 0x0200).r8 .ah) : Byte × Byte) ∈ [(0x10, 0x00), (0x10, 0x02),
      (0x10, 0x0B), (0x16, 0x00), (0x21, 0x02), (0x21, (lab []).cfg.dosReadNoEchoAh),
      (0x21, 0x2C), (0x21, 0x4C)] ∧
    Reg16.bx ≠ .ax ∧ Reg16.bx ≠ .cx ∧ Reg16.bx ≠ .dx :=
  ⟨⟨_, rfl⟩, by decide⟩

end Sys2Proof.Tests
end

/-! ### Byte registers as halves of word registers (10_state.md R22, R23) -/

namespace Sys2Proof.Machine

/-- `hi` is bits 15:8 and `lo` bits 7:0 of the word register `r`. -/
structure AreHalves (r : Reg16) (hi lo : Reg8) : Prop where
  parent_hi : parent hi = r
  isHigh_hi : isHigh hi = true
  parent_lo : parent lo = r
  isHigh_lo : isHigh lo = false

section
variable {r : Reg16} {hi lo : Reg8}

theorem AreHalves.ne (hp : AreHalves r hi lo) : hi ≠ lo := by
  rintro rfl
  exact Bool.false_ne_true (hp.isHigh_lo.symm.trans hp.isHigh_hi)

theorem AreHalves.r8_hi (hp : AreHalves r hi lo) (s : State) : s.r8 hi = highByte (s.r16 r) := by
  simp [State.r8, hp.isHigh_hi, hp.parent_hi]

theorem AreHalves.r8_lo (hp : AreHalves r hi lo) (s : State) : s.r8 lo = lowByte (s.r16 r) := by
  simp [State.r8, hp.isHigh_lo, hp.parent_lo]

theorem AreHalves.r16_toNat (hp : AreHalves r hi lo) (s : State) :
    (s.r16 r).toNat = (s.r8 hi).toNat * 256 + (s.r8 lo).toNat := by
  rw [← joinBytes_toNat, hp.r8_hi, hp.r8_lo, joinBytes_high_low]

end

/-- Settles O26: after a byte write the word is read as its two halves, one the byte written, the
other as it was. -/
theorem byteHalvesAliasTheirWord : Obligations.ByteHalvesAliasTheirWord := by
  intro s v w ⟨r, hi, lo⟩ hmem
  have hp : AreHalves r hi lo := by
    simp only [List.mem_cons, Prod.mk.injEq, List.not_mem_nil, or_false] at hmem
    rcases hmem with ⟨rfl, rfl, rfl⟩ | ⟨rfl, rfl, rfl⟩ | ⟨rfl, rfl, rfl⟩ | ⟨rfl, rfl, rfl⟩ <;>
      exact ⟨rfl, rfl, rfl, rfl⟩
  refine ⟨hp.r16_toNat s, ?_, ?_, ?_, ?_⟩
  · rw [hp.r16_toNat, State.r8_setR8_same, State.r8_setR8_ne _ _ hp.ne.symm]
  · rw [hp.r16_toNat, State.r8_setR8_same, State.r8_setR8_ne _ _ hp.ne]
  · rw [hp.r8_hi, State.r16_setR16_same, highByte_toNat]
  · rw [hp.r8_lo, State.r16_setR16_same, lowByte_toNat]

/-! ### Ends without a raised condition (60_exceptions.md R342) -/

/-- `t` runs on, or ended by EXIT: no condition was raised. -/
def State.NoCondition (t : State) : Prop :=
  t.runState = .running ∨ ∃ code, t.runState = .halted (.exit code)

theorem State.not_noCondition_raise (s : State) (c : Cond) : ¬ (s.raise c).NoCondition := by
  rintro (h | ⟨code, h⟩)
  · cases h
  · cases c <;> cases h

/-- A handler whose next state shows no condition raised none. -/
theorem State.settle_noCondition {s t : State} {r : Except Cond State} (h : s.settle r = .next t)
    (ht : t.NoCondition) : r = .ok t := by
  rcases State.settle_cases h with h | ⟨c, -, rfl⟩
  · exact h
  · exact absurd ht (s.not_noCondition_raise c)

/-! ### Results that leave pc at a given index (10_state.md R28) -/

/-- If the result is a state, its pc is `n`. -/
def LeavesPcAt (r : Except Cond State) (n : Nat) : Prop := ∀ t, r = .ok t → t.pc = n

theorem LeavesPcAt.ok {t : State} {n : Nat} (h : t.pc = n) : LeavesPcAt (.ok t) n :=
  fun _ ht => Except.ok.inj ht ▸ h

theorem LeavesPcAt.error (c : Cond) (n : Nat) : LeavesPcAt (.error c) n :=
  fun _ h => by cases h

theorem LeavesPcAt.map_skip {α : Type} {f : α → State} {n k : Nat} (hf : ∀ a, (f a).pc = n)
    (r : Except Cond α) : LeavesPcAt (r.map fun a => (f a).skip k) (n + k) := fun _ h => by
  obtain ⟨a, -, rfl⟩ := except_map_cases h
  rw [State.skip_pc, hf a]

theorem LeavesPcAt.bind {α : Type} {f : α → Except Cond State} {n : Nat}
    (hf : ∀ a, LeavesPcAt (f a) n) (r : Except Cond α) : LeavesPcAt (r.bind f) n := fun _ h => by
  obtain ⟨a, -, h⟩ := except_bind_cases h
  exact hf a _ h

theorem LeavesPcAt.skip {r : Except Cond State} {n : Nat} (hr : LeavesPcAt r n) (k : Nat) :
    LeavesPcAt (r.map (·.skip k)) (n + k) := fun _ h => by
  obtain ⟨u, hu, rfl⟩ := except_map_cases h
  rw [State.skip_pc, hr u hu]

theorem leavesPcAt_subFlags_bind {w n : Nat} (s : State) (a b : BitVec w)
    {f : State → Except Cond State} (hf : ∀ x, LeavesPcAt (f (s.setFlags x)) n) :
    LeavesPcAt ((s.subFlags a b).bind f) n := by
  rw [State.subFlags_ok]
  exact hf _

theorem leavesPcAt_subFlags_skip {w k : Nat} (s : State) (a b : BitVec w) {f : State → State}
    (hf : ∀ x, (f (s.setFlags x)).pc = s.pc) :
    LeavesPcAt ((s.subFlags a b).map fun u => (f u).skip k) (s.pc + k) := by
  rw [State.subFlags_ok]
  exact .ok (congrArg (· + k) (hf _))

theorem leavesPcAt_writeLoc8 (s : State) (l : Loc Reg8) (v : Byte) :
    LeavesPcAt (s.writeLoc8 l v) s.pc := fun _ h => by
  rcases State.writeLoc8_ok h with ⟨_, -, rfl⟩ | ⟨_, -, -, rfl⟩ <;> rfl

theorem leavesPcAt_writeLoc16 (s : State) (l : Loc Reg16) (v : Word) :
    LeavesPcAt (s.writeLoc16 l v) s.pc := fun _ h => by
  rcases State.writeLoc16_ok h with ⟨_, -, rfl⟩ | ⟨_, -, -, rfl⟩ <;> rfl

theorem leavesPcAt_writeImm8 (s : State) (op : Byte) (dst : RM8) (imm : Byte) :
    LeavesPcAt (s.writeImm8 op dst imm) s.pc := by
  cases dst with
  | reg r => exact .error _ _
  | mem m => exact leavesPcAt_writeLoc8 s (.mem (s.addr m)) imm

theorem leavesPcAt_writeImm16 (s : State) (op : Byte) (dst : RM16) (imm : Word) :
    LeavesPcAt (s.writeImm16 op dst imm) s.pc := by
  cases dst with
  | reg r => exact .error _ _
  | mem m => exact leavesPcAt_writeLoc16 s (.mem (s.addr m)) imm

theorem leavesPcAt_modify8 (s : State) (dst : RM8) (f : Byte → Byte) (n : Nat) :
    LeavesPcAt (s.modify8 dst f n) (s.pc + n) :=
  .bind (fun _ => (leavesPcAt_writeLoc8 s _ _).skip n) _

theorem leavesPcAt_modify16 (s : State) (dst : RM16) (f : Word → Word) (n : Nat) :
    LeavesPcAt (s.modify16 dst f n) (s.pc + n) :=
  .bind (fun _ => (leavesPcAt_writeLoc16 s _ _).skip n) _

theorem leavesPcAt_push16 (s : State) (v : Word) : LeavesPcAt (s.push16 v) s.pc :=
  leavesPcAt_writeLoc16 (s.setR16 .sp (s.r16 .sp - 2)) (.mem _) v

theorem leavesPcAt_scanString (s : State) (n : Nat) :
    LeavesPcAt (s.scanString n) (s.pc + n) := by
  unfold State.scanString
  dsimp only
  split
  · exact .error _ _
  · exact .ok rfl

/-! ### Instructions that run on to the next one -/

/-- What `i` does in `s`, unless it raises a condition, leaves pc after its last byte: as many bytes
after the opcode byte as its length says (30_encoding.md R95). -/
def RunsOn (i : Instr) (s : State) : Prop :=
  ∃ r k, exec i s = s.settle r ∧ LeavesPcAt r (s.pc + k) ∧ i.length = 1 + k

theorem RunsOn.of_settle {i : Instr} {s : State} {r : Except Cond State} {k : Nat}
    (he : exec i s = s.settle r) (hr : LeavesPcAt r (s.pc + k))
    (hk : i.length = 1 + k := by simp +arith [Instr.length]) : RunsOn i s :=
  ⟨r, k, he, hr, hk⟩

theorem RunsOn.pc {i : Instr} {s t : State} (hr : RunsOn i s) (h : exec i s = .next t)
    (ht : t.NoCondition) : t.pc = s.pc + (i.length - 1) := by
  obtain ⟨r, k, he, hpc, hk⟩ := hr
  rw [hpc t (State.settle_noCondition (he ▸ h) ht), hk, Nat.add_sub_cancel_left]

theorem runsOn_movSregRm16 (f : BitVec 3) (src : RM16) (s : State) :
    RunsOn (.movSregRm16 f src) s := by
  cases hf : SReg.ofField f with
  | none =>
    have he : exec (.movSregRm16 f src) s =
        s.settle (.error (.unsupportedOperand 0x8E (src.modrm Reg16.code f))) := by
      simp [exec, execMovSregRm16, hf]
    exact .of_settle (k := 1 + src.dlen) he (.error _ _)
  | some g =>
    have he : exec (.movSregRm16 f src) s = s.settle ((s.readLoc16 (s.loc src)).map fun v =>
        (s.setSeg g v).skip (1 + src.dlen)) := by simp [exec, execMovSregRm16, hf]
    exact .of_settle he (.map_skip (fun _ => by rfl) _)

theorem runsOn_popR16 (dst : Reg16) (s : State) : RunsOn (.popR16 dst) s := by
  refine .of_settle (k := 0) rfl ?_
  rcases s.pop16_cases with ⟨-, e⟩ | ⟨-, e⟩ <;> rw [e]
  · exact .ok rfl
  · exact .error _ _

/-- Every instruction but the control transfers and INT, by the way its result is made: a value read
and put into a register, a value written to a location, or both. -/
theorem runsOn_of_family {i : Instr} (hc : i.family ≠ .control) (hi : i.family ≠ .interrupt)
    (s : State) : RunsOn i s := by
  cases i
  case jz | jnz | jl | jmp | call | ret => exact absurd rfl hc
  case int => exact absurd rfl hi
  case movSregRm16 => exact runsOn_movSregRm16 _ _ s
  case movR8Imm8 | movR16Imm16 => exact .of_settle (r := .ok _) rfl (.ok (State.skip_pc _ _))
  case movR8Rm8 | movR16Rm16 | movAlMoffs8 | movAxMoffs16 =>
    exact .of_settle rfl (.map_skip (fun _ => by rfl) _)
  case movRm8R8 => exact .of_settle rfl ((leavesPcAt_writeLoc8 s _ _).skip _)
  case movRm16R16 => exact .of_settle rfl ((leavesPcAt_writeLoc16 s _ _).skip _)
  case movRm8Imm8 => exact .of_settle rfl ((leavesPcAt_writeImm8 s _ _ _).skip _)
  case movRm16Imm16 => exact .of_settle rfl ((leavesPcAt_writeImm16 s _ _ _).skip _)
  case subR8Rm8 | subR16Rm16 | cmpR8Rm8 | cmpR16Rm16 | cmpRm16Imm8 | cmpRm8Imm8 =>
    exact .of_settle rfl (.bind (fun _ => leavesPcAt_subFlags_skip s _ _ fun _ => rfl) _)
  case subRm16Imm8 =>
    exact .of_settle rfl (.bind (fun _ => leavesPcAt_subFlags_bind s _ _ fun x =>
      (leavesPcAt_writeLoc16 (s.setFlags x) _ _).skip _) _)
  case andRm8Imm8 | shrRm8 => exact .of_settle rfl (leavesPcAt_modify8 s _ _ _)
  case andRm16Imm16 | andRm16Imm8 | shrRm16 => exact .of_settle rfl (leavesPcAt_modify16 s _ _ _)
  case pushR16 => exact .of_settle (k := 0) rfl (leavesPcAt_push16 s _)
  case popR16 => exact runsOn_popR16 _ s
  case scasb | repneScasb => exact .of_settle rfl (leavesPcAt_scanString s _)

/-- A service that raises no condition runs in an INT that is consumed whole. -/
theorem IntOutcome.pc {n : Byte} {s t : State} (h : IntOutcome n s t) (ht : t.NoCondition) :
    t.pc = s.pc + 1 := by
  cases h with
  | writeStringFails => exact absurd ht (State.not_noCondition_raise _ _)
  | _ => rfl

/-- R29: an instruction that is no control transfer leaves pc after its last byte. -/
theorem exec_pc_of_not_control {i : Instr} {s t : State} (hc : i.family ≠ .control)
    (h : exec i s = .next t) (ht : t.NoCondition) : t.pc = s.pc + (i.length - 1) := by
  by_cases hi : i.family = .interrupt
  · cases i <;> cases hi
    exact (exec_int_cases h).pc ht
  · exact (runsOn_of_family hc hi s).pc h ht

/-! ### Control transfers (45_control_transfer.md R260 to R266) -/

theorem target_ok {next n : Nat} {d : Int} (h : target next d = .ok n) : (n : Int) = next + d := by
  rcases target_cases next d with ⟨h0, e⟩ | ⟨-, e⟩ <;> rw [e] at h
  · rw [← Except.ok.inj h, Int.toNat_of_nonneg h0]
  · cases h

theorem State.jumpShort_pc {s t : State} {taken : Bool} {rel : Byte}
    (h : s.jumpShort taken rel = .ok t) :
    (t.pc : Int) = s.pc + 1 + if taken then rel.toInt else 0 := by
  cases taken with
  | false => rw [← Except.ok.inj h]; simp
  | true =>
    obtain ⟨n, hn, rfl⟩ := except_map_cases h
    simpa using target_ok hn

theorem execCall_pc {rel : Word} {s t : State} (h : exec (.call rel) s = .next t)
    (ht : t.NoCondition) :
    (t.pc : Int) = s.pc + 2 + rel.toInt ∧ t.callStack = s.callStack ++ [s.pc + 2] := by
  have h := State.settle_noCondition h ht
  split at h
  · cases h
  · obtain ⟨n, hn, rfl⟩ := except_map_cases h
    exact ⟨by simpa using target_ok hn, rfl⟩

theorem execRet_pc {s t : State} (h : exec .ret s = .next t) (ht : t.NoCondition) :
    s.callStack = t.callStack ++ [t.pc] := by
  simp only [exec, execRet] at h
  split at h
  · exact absurd (Host.Outcome.next.inj h ▸ ht) (s.not_noCondition_raise _)
  · rename_i ret hret
    rw [← Host.Outcome.next.inj h]
    exact (List.dropLast_append_getLast? ret hret).symm

/-- Settles O19: a jump by the condition it tests, CALL and RET by the call stack, and every other
instruction by the bytes it consumes. -/
theorem pcAfterAnInstruction : Obligations.PcAfterAnInstruction := by
  intro i s t _ h ht
  cases i
  case jz => exact State.jumpShort_pc (State.settle_noCondition h ht)
  case jnz =>
    have hpc := State.jumpShort_pc (State.settle_noCondition h ht)
    cases hz : s.flag .zf <;> simpa [State.condNz, hz] using hpc
  case jl =>
    have hpc := State.jumpShort_pc (State.settle_noCondition h ht)
    by_cases hl : s.flag .sf = s.flag .of <;> simpa [State.condL, hl] using hpc
  case jmp => exact State.jumpShort_pc (State.settle_noCondition h ht)
  case call => exact execCall_pc h ht
  case ret => exact execRet_pc h ht
  all_goals exact exec_pc_of_not_control nofun h ht

end Sys2Proof.Machine

/-! ### INT services (47_interrupts.md R302, R309) -/

namespace Sys2Proof.Machine

/-- INT with a vector and sub-code of the service table runs that service (R300 to R302). -/
theorem exec_int_of_find {n : Byte} {s : State} {v : Service}
    (h : Service.find s.cfg n (s.r8 .ah) = some v) : exec (.int n) s = .next (v.run s) := by
  simp only [exec, execInt, h]

/-- Settles O55: INT 21h AH = 02h runs the write-character service, which sends DL and copies it into
AL, the low half of AX. The model's table tries 02h before `DOS_READ_NOECHO_AH` (log entry 10), so the
premise on that parameter is not needed. -/
theorem writeCharacterService : Obligations.WriteCharacterService := by
  intro s hah _
  have hfind : Service.find s.cfg 0x21 (s.r8 .ah) = some .writeChar := by rw [hah]; rfl
  refine ⟨_, exec_int_of_find hfind, rfl, State.r8_setR8_same _ _ _, ?_, rfl, rfl, ?_⟩
  · exact State.r8_setR8_ne _ _ (by decide)
  · exact fun r hr => State.r16_setR8_ne _ _ hr

end Sys2Proof.Machine

/-! ### A halted core (60_exceptions.md R346) -/

namespace Sys2Proof.Machine

/-- Settles O9: `step` answers a halted state with a fault, and a fault is no next state. -/
theorem haltedCoreTakesNoStep : Obligations.HaltedCoreTakesNoStep := by
  intro s r h
  have hfault : step s = .fault (.halted r) := step_of_halted h
  refine ⟨hfault, fun t hnext => ?_⟩
  rw [hfault] at hnext
  cases hnext

end Sys2Proof.Machine

/-! ### Instructions that write no flag (70_reset_and_hazards.md R386) -/

namespace Sys2Proof.Machine

/-- If the result is a state, it has the flags of `s`. -/
def KeepsFlags (s : State) (r : Except Cond State) : Prop := ∀ t, r = .ok t → t.flags = s.flags

theorem KeepsFlags.ok {s t : State} (h : t.flags = s.flags) : KeepsFlags s (.ok t) :=
  fun _ ht => Except.ok.inj ht ▸ h

theorem KeepsFlags.error (s : State) (c : Cond) : KeepsFlags s (.error c) :=
  fun _ h => by cases h

theorem KeepsFlags.map {α : Type} {s : State} {f : α → State} (hf : ∀ a, (f a).flags = s.flags)
    (r : Except Cond α) : KeepsFlags s (r.map f) := fun _ h => by
  obtain ⟨a, -, rfl⟩ := except_map_cases h
  exact hf a

theorem KeepsFlags.skip {s : State} {r : Except Cond State} (hr : KeepsFlags s r) (n : Nat) :
    KeepsFlags s (r.map (·.skip n)) := fun _ h => by
  obtain ⟨u, hu, rfl⟩ := except_map_cases h
  exact hr u hu

theorem KeepsFlags.bind {α : Type} {s : State} {f : α → Except Cond State}
    (hf : ∀ a, KeepsFlags s (f a)) (r : Except Cond α) : KeepsFlags s (r.bind f) := fun _ h => by
  obtain ⟨a, -, h⟩ := except_bind_cases h
  exact hf a _ h

/-- A raised condition leaves the flags alone, so the handler's own result decides. -/
theorem KeepsFlags.settle {s t : State} {r : Except Cond State} (hr : KeepsFlags s r)
    (h : s.settle r = .next t) : t.flags = s.flags := by
  rcases State.settle_cases h with h | ⟨c, -, rfl⟩
  · exact hr t h
  · exact s.raise_flags c

/-! #### The shared operations -/

theorem keepsFlags_writeLoc8 (s : State) (l : Loc Reg8) (v : Byte) :
    KeepsFlags s (s.writeLoc8 l v) := fun _ h => by
  rcases State.writeLoc8_ok h with ⟨_, -, rfl⟩ | ⟨_, -, -, rfl⟩ <;> rfl

theorem keepsFlags_writeLoc16 (s : State) (l : Loc Reg16) (v : Word) :
    KeepsFlags s (s.writeLoc16 l v) := fun _ h => by
  rcases State.writeLoc16_ok h with ⟨_, -, rfl⟩ | ⟨_, -, -, rfl⟩ <;> rfl

theorem keepsFlags_writeImm8 (s : State) (op : Byte) (dst : RM8) (imm : Byte) :
    KeepsFlags s (s.writeImm8 op dst imm) := by
  cases dst with
  | reg r => exact .error _ _
  | mem m => exact keepsFlags_writeLoc8 s (.mem (s.addr m)) imm

theorem keepsFlags_writeImm16 (s : State) (op : Byte) (dst : RM16) (imm : Word) :
    KeepsFlags s (s.writeImm16 op dst imm) := by
  cases dst with
  | reg r => exact .error _ _
  | mem m => exact keepsFlags_writeLoc16 s (.mem (s.addr m)) imm

theorem keepsFlags_modify8 (s : State) (dst : RM8) (f : Byte → Byte) (n : Nat) :
    KeepsFlags s (s.modify8 dst f n) :=
  .bind (fun _ => (keepsFlags_writeLoc8 s _ _).skip n) _

theorem keepsFlags_modify16 (s : State) (dst : RM16) (f : Word → Word) (n : Nat) :
    KeepsFlags s (s.modify16 dst f n) :=
  .bind (fun _ => (keepsFlags_writeLoc16 s _ _).skip n) _

theorem keepsFlags_push16 (s : State) (v : Word) : KeepsFlags s (s.push16 v) :=
  keepsFlags_writeLoc16 (s.setR16 .sp (s.r16 .sp - 2)) (.mem _) v

theorem keepsFlags_pop16 (s : State) (dst : Reg16) :
    KeepsFlags s (s.pop16.map fun (v, u) => u.setR16 dst v) := by
  rcases s.pop16_cases with ⟨-, e⟩ | ⟨-, e⟩ <;> rw [e]
  · exact .ok rfl
  · exact .error _ _

theorem keepsFlags_jumpShort (s : State) (taken : Bool) (rel : Byte) :
    KeepsFlags s (s.jumpShort taken rel) := by
  cases taken with
  | false => exact .ok (s.skip_flags _)
  | true => exact .map s.setPc_flags _

/-! #### Handlers with branches of their own: MOV to a segment register, CALL, RET and INT -/

theorem execMovSregRm16_flags {f : BitVec 3} {src : RM16} {s t : State}
    (h : exec (.movSregRm16 f src) s = .next t) : t.flags = s.flags := by
  simp only [exec, execMovSregRm16] at h
  split at h
  · rw [← Host.Outcome.next.inj h, State.raise_flags]
  · exact KeepsFlags.settle (.map (fun _ => by rfl) _) h

theorem execCall_flags {rel : Word} {s t : State} (h : exec (.call rel) s = .next t) :
    t.flags = s.flags := by
  refine KeepsFlags.settle ?_ h
  split
  · exact .error _ _
  · exact .map (fun _ => by rfl) _

theorem execRet_flags {s t : State} (h : exec .ret s = .next t) : t.flags = s.flags := by
  simp only [exec, execRet] at h
  split at h <;> rw [← Host.Outcome.next.inj h]
  · exact s.raise_flags _
  · rfl

/-- No service writes a flag, and none is written by a service that is missing or fails. -/
theorem IntOutcome.flags {n : Byte} {s t : State} (h : IntOutcome n s t) : t.flags = s.flags := by
  cases h <;> rfl

/-- SUB, CMP and the scans are the only writers of flags. The other instructions are taken by the
way their result is made: a value put into a register, a value written to a location, a change of
the stack, a transfer of control, or a service. -/
theorem exec_flags_of_family {i : Instr} {s t : State} (hsub : i.family ≠ .subCmp)
    (hscan : i.family ≠ .scan) (h : exec i s = .next t) : t.flags = s.flags := by
  cases i
  case subR8Rm8 | subR16Rm16 | cmpR8Rm8 | cmpR16Rm16 | subRm16Imm8 | cmpRm16Imm8 | cmpRm8Imm8 =>
    exact absurd rfl hsub
  case scasb | repneScasb => exact absurd rfl hscan
  case movR8Imm8 | movR16Imm16 => rw [← Host.Outcome.next.inj h]; rfl
  case movR8Rm8 | movR16Rm16 | movAlMoffs8 | movAxMoffs16 =>
    exact KeepsFlags.settle (.map (fun _ => by rfl) _) h
  case movSregRm16 => exact execMovSregRm16_flags h
  case movRm8R8 => exact ((keepsFlags_writeLoc8 s _ _).skip _).settle h
  case movRm16R16 => exact ((keepsFlags_writeLoc16 s _ _).skip _).settle h
  case movRm8Imm8 => exact ((keepsFlags_writeImm8 s _ _ _).skip _).settle h
  case movRm16Imm16 => exact ((keepsFlags_writeImm16 s _ _ _).skip _).settle h
  case andRm8Imm8 | shrRm8 => exact (keepsFlags_modify8 s _ _ _).settle h
  case andRm16Imm16 | andRm16Imm8 | shrRm16 => exact (keepsFlags_modify16 s _ _ _).settle h
  case pushR16 => exact (keepsFlags_push16 s _).settle h
  case popR16 => exact (keepsFlags_pop16 s _).settle h
  case jz | jnz | jl | jmp => exact (keepsFlags_jumpShort s _ _).settle h
  case call => exact execCall_flags h
  case ret => exact execRet_flags h
  case int => exact (exec_int_cases h).flags

/-- What a flag name reads is decided by the stored flags. -/
theorem State.flag_congr {s t : State} (h : t.flags = s.flags) (f : FlagName) :
    t.flag f = s.flag f := by
  cases f <;> simp [State.flag, h]

/-- Settles O17: the stored flags are those of before, hence so are the flags read from them and the
branch conditions. -/
theorem flagsSurviveOtherInstructions : Obligations.FlagsSurviveOtherInstructions := by
  intro i s t h hsub hscan
  have hflag : ∀ f, t.flag f = s.flag f := State.flag_congr (exec_flags_of_family hsub hscan h)
  simp only [State.condZ, State.condNz, State.condL, hflag, and_self]

end Sys2Proof.Machine

/-! ### Decoding an encoding (30_encoding.md sections 2 to 6) -/

namespace Sys2Proof

/-- The opcode byte of a dispatch-table entry (30_encoding.md R97, R101, R108), with `r` in bits 2:0
where the entry is a range of eight opcodes. -/
def Handler.opcode (r : BitVec 3) : Handler → Byte
  | .movRm8R8 => 0x88
  | .movRm16R16 => 0x89
  | .movR8Rm8 => 0x8A
  | .movR16Rm16 => 0x8B
  | .movSreg => 0x8E
  | .movAlMoffs => 0xA0
  | .movAxMoffs => 0xA1
  | .movR8Imm => packOpcode 0b10110 r
  | .movR16Imm => packOpcode 0b10111 r
  | .subR8 => 0x2A
  | .subR16 => 0x2B
  | .cmpR8 => 0x3A
  | .cmpR16 => 0x3B
  | .pushR => packOpcode 0b01010 r
  | .popR => packOpcode 0b01011 r
  | .jz => 0x74
  | .jnz => 0x75
  | .jl => 0x7C
  | .jmp => 0xEB
  | .call => 0xE8
  | .ret => 0xC3
  | .scasb => 0xAE
  | .int => 0xCD
  | .group80 => 0x80
  | .group81 => 0x81
  | .group83 => 0x83
  | .groupC6 => 0xC6
  | .groupC7 => 0xC7
  | .groupD0 => 0xD0
  | .groupD1 => 0xD1
  | .prefixF2 => 0xF2

theorem dispatchTable_opcode (h : Handler) (r : BitVec 3) :
    dispatchTable (h.opcode r) = some h := by
  cases h <;> revert r <;> decide

theorem packOpcode_eq_of_top {op : Byte} {top : BitVec 5} (h : op.extractLsb' 3 5 = top) :
    op = packOpcode top (rmField op) := by
  rw [← h, packOpcode_fields]

/-- An entry of the dispatch table is found under its own opcodes only. -/
theorem eq_opcode_of_dispatchTable {op : Byte} {h : Handler} (hd : dispatchTable op = some h) :
    op = h.opcode (rmField op) := by
  unfold dispatchTable at hd
  split at hd
  case h_28 =>
    split_ifs at hd with htop htop htop htop <;> cases hd <;> exact packOpcode_eq_of_top htop
  all_goals cases hd; rfl

theorem decode_of_handler (h : Handler) (r : BitVec 3) {bs rest : List Byte} {i : Instr}
    (hd : h.decode (h.opcode r) bs = .ok i rest) : decode (h.opcode r :: bs) = .ok i rest := by
  simp only [decode, dispatchTable_opcode, hd]

/-! #### The forms, on the bytes of an operand -/

section
variable {ρ : Type} {name : BitVec 3 → ρ} {num : ρ → BitVec 3} {rm : RM ρ}

theorem regField_modrm (num : ρ → BitVec 3) (reg : BitVec 3) (rm : RM ρ) :
    regField (rm.modrm num reg) = reg := by
  cases rm <;> simp [RM.modrm]

theorem RM.bytes_eq_cons (num : ρ → BitVec 3) (reg : BitVec 3) (rm : RM ρ) :
    ∃ tl, rm.bytes num reg = rm.modrm num reg :: tl := by
  cases rm with
  | reg r => exact ⟨[], rfl⟩
  | mem m => exact ⟨m.dispBytes, rfl⟩

@[simp] theorem formReg_bytes (hn : ∀ r, name (num r) = r) (mk : BitVec 3 → RM ρ → Instr)
    (reg : BitVec 3) (hw : rm.wf = true) (rest : List Byte) :
    formReg name mk (rm.bytes num reg ++ rest) = .ok (mk reg rm) rest := by
  obtain ⟨tl, hb, hreg, hrm, -⟩ := takeRM_bytes name num hn reg rm hw rest
  simp [formReg, hb, take8, hrm, hreg]

@[simp] theorem formRMImm8_bytes (hn : ∀ r, name (num r) = r) (mk : RM ρ → Byte → Instr)
    (reg : BitVec 3) (hw : rm.wf = true) (v : Byte) (rest : List Byte) :
    formRMImm8 name mk (rm.bytes num reg ++ v :: rest) = .ok (mk rm v) rest := by
  obtain ⟨tl, hb, -, hrm, -⟩ := takeRM_bytes name num hn reg rm hw (v :: rest)
  simp [formRMImm8, hb, take8, hrm]

@[simp] theorem formRMImm16_bytes (hn : ∀ r, name (num r) = r) (mk : RM ρ → Word → Instr)
    (reg : BitVec 3) (hw : rm.wf = true) (v : Word) (rest : List Byte) :
    formRMImm16 name mk (rm.bytes num reg ++ (encode16 v ++ rest)) = .ok (mk rm v) rest := by
  obtain ⟨tl, hb, -, hrm, -⟩ := takeRM_bytes name num hn reg rm hw (encode16 v ++ rest)
  simp [formRMImm16, hb, take8, hrm]

/-- A group opcode runs the member its reg field names. -/
theorem decodeGroup_bytes (op : Byte) {member : BitVec 3 → Option (List Byte → Decoded Instr)}
    {form : List Byte → Decoded Instr} {reg : BitVec 3} (hm : member reg = some form)
    (num : ρ → BitVec 3) (rm : RM ρ) (rest : List Byte) :
    decodeGroup op member (rm.bytes num reg ++ rest) = form (rm.bytes num reg ++ rest) := by
  obtain ⟨tl, hb⟩ := rm.bytes_eq_cons num reg
  simp [hb, decodeGroup, regField_modrm, hm]

theorem memOnly_bytes (op : Byte) (form : List Byte → Decoded Instr) (num : ρ → BitVec 3)
    (reg : BitVec 3) (hm : rm.isMem = true) (rest : List Byte) :
    memOnly op form (rm.bytes num reg ++ rest) = form (rm.bytes num reg ++ rest) := by
  cases rm with
  | reg r => cases hm
  | mem m =>
    have h3 : modField (RM.modrm num reg (.mem m)) ≠ 3 := by
      cases m <;> simp [RM.modrm, MemOp.modBits]
    simp only [RM.bytes, memOnly, List.cons_append, if_neg h3]

end

theorem formSreg_bytes {f : BitVec 3} {src : RM16} (hf : sregFieldOk f = true)
    (hw : src.wf = true) (rest : List Byte) :
    formSreg (src.bytes Reg16.code f ++ rest) = .ok (.movSregRm16 f src) rest := by
  obtain ⟨tl, hb⟩ := src.bytes_eq_cons Reg16.code f
  have hform := formReg_bytes Reg16.ofCode_code .movSregRm16 f hw rest
  rw [hb] at hform
  simpa [hb, formSreg, regField_modrm, hf] using hform

/-- Settles O1: by the constructors. The opcode byte picks the entry of the dispatch table, in a
group the reg field the member, and the form reads back operand and immediate. -/
theorem decodeInvertsEncode : Obligations.DecodeInvertsEncode := by
  intro i rest hw
  cases i <;> simp only [Instr.wf, Bool.and_eq_true] at hw <;>
    simp only [encode, List.cons_append, List.append_assoc, List.nil_append]
  case movRm8R8 => exact decode_of_handler .movRm8R8 0 (by simp [Handler.decode, hw])
  case movRm16R16 => exact decode_of_handler .movRm16R16 0 (by simp [Handler.decode, hw])
  case movR8Rm8 => exact decode_of_handler .movR8Rm8 0 (by simp [Handler.decode, hw])
  case movR16Rm16 => exact decode_of_handler .movR16Rm16 0 (by simp [Handler.decode, hw])
  case movSregRm16 => exact decode_of_handler .movSreg 0 (formSreg_bytes hw.1 hw.2 rest)
  case movAlMoffs8 => exact decode_of_handler .movAlMoffs 0 (by simp [Handler.decode, formImm16])
  case movAxMoffs16 => exact decode_of_handler .movAxMoffs 0 (by simp [Handler.decode, formImm16])
  case movR8Imm8 dst _ =>
    exact decode_of_handler .movR8Imm dst.code
      (by simp [Handler.decode, Handler.opcode, formImm8, take8])
  case movR16Imm16 dst _ =>
    exact decode_of_handler .movR16Imm dst.code
      (by simp [Handler.decode, Handler.opcode, formImm16])
  case movRm8Imm8 =>
    exact decode_of_handler .groupC6 0 ((decodeGroup_bytes _ rfl _ _ _).trans
      ((memOnly_bytes _ _ _ _ hw.1 _).trans (by simp [hw.2])))
  case movRm16Imm16 =>
    exact decode_of_handler .groupC7 0 ((decodeGroup_bytes _ rfl _ _ _).trans
      ((memOnly_bytes _ _ _ _ hw.1 _).trans (by simp [hw.2])))
  case subR8Rm8 => exact decode_of_handler .subR8 0 (by simp [Handler.decode, hw])
  case subR16Rm16 => exact decode_of_handler .subR16 0 (by simp [Handler.decode, hw])
  case cmpR8Rm8 => exact decode_of_handler .cmpR8 0 (by simp [Handler.decode, hw])
  case cmpR16Rm16 => exact decode_of_handler .cmpR16 0 (by simp [Handler.decode, hw])
  case subRm16Imm8 | cmpRm16Imm8 | andRm16Imm8 =>
    exact decode_of_handler .group83 0 ((decodeGroup_bytes _ rfl _ _ _).trans (by simp [hw]))
  case cmpRm8Imm8 | andRm8Imm8 =>
    exact decode_of_handler .group80 0 ((decodeGroup_bytes _ rfl _ _ _).trans (by simp [hw]))
  case andRm16Imm16 =>
    exact decode_of_handler .group81 0 ((decodeGroup_bytes _ rfl _ _ _).trans (by simp [hw]))
  case shrRm8 =>
    exact decode_of_handler .groupD0 0 ((decodeGroup_bytes _ rfl _ _ _).trans
      (by simp [formRM, hw]))
  case shrRm16 =>
    exact decode_of_handler .groupD1 0 ((decodeGroup_bytes _ rfl _ _ _).trans
      (by simp [formRM, hw]))
  case pushR16 src =>
    exact decode_of_handler .pushR src.code (by simp [Handler.decode, Handler.opcode])
  case popR16 dst =>
    exact decode_of_handler .popR dst.code (by simp [Handler.decode, Handler.opcode])
  case jz => exact decode_of_handler .jz 0 rfl
  case jnz => exact decode_of_handler .jnz 0 rfl
  case jl => exact decode_of_handler .jl 0 rfl
  case jmp => exact decode_of_handler .jmp 0 rfl
  case call => exact decode_of_handler .call 0 (by simp [Handler.decode, formImm16])
  case ret => exact decode_of_handler .ret 0 rfl
  case scasb => exact decode_of_handler .scasb 0 rfl
  case repneScasb => exact decode_of_handler .prefixF2 0 rfl
  case int => exact decode_of_handler .int 0 rfl

/-! #### Bytes that decode -/

/-- What `f` reads after the opcode byte `op` is, with it, the encoding of a well-formed
instruction. -/
def ReadsEncodings (op : Byte) (f : List Byte → Decoded Instr) : Prop :=
  ∀ bs i rest, f bs = .ok i rest → i.wf = true ∧ op :: bs = encode i ++ rest

theorem ReadsEncodings.ok {op : Byte} {i : Instr} (hw : i.wf = true) (he : encode i = [op]) :
    ReadsEncodings op (.ok i) := fun bs _ _ h => by
  obtain ⟨rfl, rfl⟩ := Decoded.ok.inj h
  exact ⟨hw, by rw [he]; rfl⟩

theorem ReadsEncodings.formImm8 {op : Byte} {mk : Byte → Instr} (hw : ∀ v, (mk v).wf = true)
    (he : ∀ v, encode (mk v) = [op, v]) : ReadsEncodings op (formImm8 mk) := fun bs _ _ h => by
  obtain ⟨v, r, hv, h⟩ := Decoded.bind_eq_ok h
  obtain ⟨rfl, rfl⟩ := Decoded.ok.inj h
  exact ⟨hw v, by rw [he, take8_eq_ok hv]; rfl⟩

theorem ReadsEncodings.formImm16 {op : Byte} {mk : Word → Instr} (hw : ∀ v, (mk v).wf = true)
    (he : ∀ v, encode (mk v) = op :: encode16 v) : ReadsEncodings op (formImm16 mk) :=
  fun bs _ _ h => by
  obtain ⟨v, r, hv, h⟩ := Decoded.bind_eq_ok h
  obtain ⟨rfl, rfl⟩ := Decoded.ok.inj h
  exact ⟨hw v, by rw [he, take16_eq_ok hv]; rfl⟩

theorem ReadsEncodings.formF2 : ReadsEncodings 0xF2 formF2 := fun bs i rest h => by
  unfold Sys2Proof.formF2 at h
  split at h
  · cases h
  · split at h
    · obtain ⟨rfl, rfl⟩ := Decoded.ok.inj h
      exact ⟨rfl, by subst_vars; rfl⟩
    · cases h

section
variable {ρ : Type} {name : BitVec 3 → ρ} {num : ρ → BitVec 3} {bs rest : List Byte} {i : Instr}

/-- `rm` is the operand of the ModRM byte `modrm`: it is well-formed, and in memory unless the mode
is 3. -/
structure OperandOf (modrm : Byte) (rm : RM ρ) : Prop where
  wf : rm.wf = true
  isMem : modField modrm ≠ 3 → rm.isMem = true

theorem formReg_eq_ok (hn : ∀ c, num (name c) = c) {mk : BitVec 3 → RM ρ → Instr}
    (h : formReg name mk bs = .ok i rest) :
    ∃ modrm tl rm, bs = modrm :: tl ∧ OperandOf modrm rm ∧ i = mk (regField modrm) rm ∧
      bs = rm.bytes num (regField modrm) ++ rest := by
  obtain ⟨modrm, tl, hm, h⟩ := Decoded.bind_eq_ok h
  obtain ⟨rm, r, hrm, h⟩ := Decoded.bind_eq_ok h
  obtain ⟨rfl, rfl⟩ := Decoded.ok.inj h
  obtain ⟨hw, hb, hmem⟩ := takeRM_eq_ok hn hrm
  exact ⟨modrm, tl, rm, take8_eq_ok hm, ⟨hw, hmem⟩, rfl, (take8_eq_ok hm).trans hb⟩

theorem formRMImm8_eq_ok (hn : ∀ c, num (name c) = c) {mk : RM ρ → Byte → Instr}
    (h : formRMImm8 name mk bs = .ok i rest) :
    ∃ modrm tl rm v, bs = modrm :: tl ∧ OperandOf modrm rm ∧ i = mk rm v ∧
      bs = rm.bytes num (regField modrm) ++ v :: rest := by
  obtain ⟨modrm, tl, hm, h⟩ := Decoded.bind_eq_ok h
  obtain ⟨rm, r, hrm, h⟩ := Decoded.bind_eq_ok h
  obtain ⟨v, r', hv, h⟩ := Decoded.bind_eq_ok h
  obtain ⟨rfl, rfl⟩ := Decoded.ok.inj h
  obtain ⟨hw, hb, hmem⟩ := takeRM_eq_ok hn hrm
  rw [take8_eq_ok hv] at hb
  exact ⟨modrm, tl, rm, v, take8_eq_ok hm, ⟨hw, hmem⟩, rfl, (take8_eq_ok hm).trans hb⟩

theorem formRMImm16_eq_ok (hn : ∀ c, num (name c) = c) {mk : RM ρ → Word → Instr}
    (h : formRMImm16 name mk bs = .ok i rest) :
    ∃ modrm tl rm v, bs = modrm :: tl ∧ OperandOf modrm rm ∧ i = mk rm v ∧
      bs = rm.bytes num (regField modrm) ++ (encode16 v ++ rest) := by
  obtain ⟨modrm, tl, hm, h⟩ := Decoded.bind_eq_ok h
  obtain ⟨rm, r, hrm, h⟩ := Decoded.bind_eq_ok h
  obtain ⟨v, r', hv, h⟩ := Decoded.bind_eq_ok h
  obtain ⟨rfl, rfl⟩ := Decoded.ok.inj h
  obtain ⟨hw, hb, hmem⟩ := takeRM_eq_ok hn hrm
  rw [take16_eq_ok hv] at hb
  exact ⟨modrm, tl, rm, v, take8_eq_ok hm, ⟨hw, hmem⟩, rfl, (take8_eq_ok hm).trans hb⟩

theorem ReadsEncodings.formReg (hn : ∀ c, num (name c) = c) {op : Byte}
    {mk : BitVec 3 → RM ρ → Instr} (hw : ∀ reg rm, (mk reg rm).wf = rm.wf)
    (he : ∀ reg rm, encode (mk reg rm) = op :: rm.bytes num reg) :
    ReadsEncodings op (formReg name mk) := fun bs _ _ h => by
  obtain ⟨modrm, tl, rm, -, hrm, rfl, hb⟩ := formReg_eq_ok hn h
  exact ⟨by rw [hw, hrm.wf], by rw [he, hb]; rfl⟩

/-- `f` reads encodings from bytes that begin with a ModRM byte with `n` in its reg field: what is
asked of a group member (30_encoding.md R101). -/
def ReadsMember (op : Byte) (n : BitVec 3) (f : List Byte → Decoded Instr) : Prop :=
  ∀ modrm tl i rest, regField modrm = n → f (modrm :: tl) = .ok i rest →
    i.wf = true ∧ op :: modrm :: tl = encode i ++ rest

theorem ReadsMember.formRM (hn : ∀ c, num (name c) = c) {op : Byte} {n : BitVec 3}
    {mk : RM ρ → Instr} (hw : ∀ rm, (mk rm).wf = rm.wf)
    (he : ∀ rm, encode (mk rm) = op :: rm.bytes num n) :
    ReadsMember op n (formRM name mk) := fun _ _ _ _ hreg h => by
  obtain ⟨modrm, tl, rm, hc, hrm, rfl, hb⟩ := formReg_eq_ok hn h
  obtain ⟨rfl, rfl⟩ := List.cons.inj hc
  exact ⟨by rw [hw, hrm.wf], by rw [he, hb, hreg]; rfl⟩

theorem ReadsMember.formRMImm8 (hn : ∀ c, num (name c) = c) {op : Byte} {n : BitVec 3}
    {mk : RM ρ → Byte → Instr} (hw : ∀ rm v, (mk rm v).wf = rm.wf)
    (he : ∀ rm v, encode (mk rm v) = op :: (rm.bytes num n ++ [v])) :
    ReadsMember op n (formRMImm8 name mk) := fun _ _ _ _ hreg h => by
  obtain ⟨modrm, tl, rm, v, hc, hrm, rfl, hb⟩ := formRMImm8_eq_ok hn h
  obtain ⟨rfl, rfl⟩ := List.cons.inj hc
  exact ⟨by rw [hw, hrm.wf], by rw [he, hb, hreg]; simp⟩

theorem ReadsMember.formRMImm16 (hn : ∀ c, num (name c) = c) {op : Byte} {n : BitVec 3}
    {mk : RM ρ → Word → Instr} (hw : ∀ rm v, (mk rm v).wf = rm.wf)
    (he : ∀ rm v, encode (mk rm v) = op :: (rm.bytes num n ++ encode16 v)) :
    ReadsMember op n (formRMImm16 name mk) := fun _ _ _ _ hreg h => by
  obtain ⟨modrm, tl, rm, v, hc, hrm, rfl, hb⟩ := formRMImm16_eq_ok hn h
  obtain ⟨rfl, rfl⟩ := List.cons.inj hc
  exact ⟨by rw [hw, hrm.wf], by rw [he, hb, hreg]; simp⟩

theorem memOnly_eq_ok {op modrm : Byte} {form : List Byte → Decoded Instr} {tl : List Byte}
    (h : memOnly op form (modrm :: tl) = .ok i rest) :
    modField modrm ≠ 3 ∧ form (modrm :: tl) = .ok i rest := by
  simp only [memOnly] at h
  split at h
  · cases h
  · exact ⟨‹_›, h⟩

end

theorem readsMember_C6 :
    ReadsMember 0xC6 0 (memOnly 0xC6 (formRMImm8 Reg8.ofCode .movRm8Imm8)) :=
  fun _ _ _ _ hreg h => by
  obtain ⟨h3, h⟩ := memOnly_eq_ok h
  obtain ⟨modrm, tl, rm, v, hc, hrm, rfl, hb⟩ := formRMImm8_eq_ok Reg8.code_ofCode h
  obtain ⟨rfl, rfl⟩ := List.cons.inj hc
  exact ⟨by simp [Instr.wf, hrm.wf, hrm.isMem h3], by rw [hb, hreg]; simp [encode]⟩

theorem readsMember_C7 :
    ReadsMember 0xC7 0 (memOnly 0xC7 (formRMImm16 Reg16.ofCode .movRm16Imm16)) :=
  fun _ _ _ _ hreg h => by
  obtain ⟨h3, h⟩ := memOnly_eq_ok h
  obtain ⟨modrm, tl, rm, v, hc, hrm, rfl, hb⟩ := formRMImm16_eq_ok Reg16.code_ofCode h
  obtain ⟨rfl, rfl⟩ := List.cons.inj hc
  exact ⟨by simp [Instr.wf, hrm.wf, hrm.isMem h3], by rw [hb, hreg]; simp [encode]⟩

theorem ReadsEncodings.formSreg : ReadsEncodings 0x8E formSreg := fun bs i rest h => by
  cases bs with
  | nil => cases h
  | cons modrm tl =>
    simp only [Sys2Proof.formSreg] at h
    split at h
    · rename_i hf
      obtain ⟨_, _, rm, hc, hrm, rfl, hb⟩ := formReg_eq_ok Reg16.code_ofCode h
      obtain ⟨rfl, rfl⟩ := List.cons.inj hc
      exact ⟨by simp [Instr.wf, hrm.wf, hf], by rw [hb]; rfl⟩
    · cases h

theorem ReadsEncodings.decodeGroup {op : Byte}
    {member : BitVec 3 → Option (List Byte → Decoded Instr)}
    (hm : ∀ n f, member n = some f → ReadsMember op n f) :
    ReadsEncodings op (decodeGroup op member) := fun bs i rest h => by
  unfold Sys2Proof.decodeGroup at h
  split at h
  · cases h
  · split at h
    · exact hm _ _ ‹_› _ _ _ _ rfl h
    · cases h

/-! The members of a group are those 30_encoding.md R101 lists. -/

theorem ReadsMember.of_member80 {n : BitVec 3} {f : List Byte → Decoded Instr}
    (h : member80 n = some f) : ReadsMember 0x80 n f := by
  unfold member80 at h
  split_ifs at h <;> cases h <;> subst n <;>
    exact .formRMImm8 Reg8.code_ofCode (fun _ _ => rfl) fun _ _ => rfl

theorem ReadsMember.of_member81 {n : BitVec 3} {f : List Byte → Decoded Instr}
    (h : member81 n = some f) : ReadsMember 0x81 n f := by
  unfold member81 at h
  split_ifs at h; cases h; subst n
  exact .formRMImm16 Reg16.code_ofCode (fun _ _ => rfl) fun _ _ => rfl

theorem ReadsMember.of_member83 {n : BitVec 3} {f : List Byte → Decoded Instr}
    (h : member83 n = some f) : ReadsMember 0x83 n f := by
  unfold member83 at h
  split_ifs at h <;> cases h <;> subst n <;>
    exact .formRMImm8 Reg16.code_ofCode (fun _ _ => rfl) fun _ _ => rfl

theorem ReadsMember.of_memberC6 {n : BitVec 3} {f : List Byte → Decoded Instr}
    (h : memberC6 n = some f) : ReadsMember 0xC6 n f := by
  unfold memberC6 at h
  split_ifs at h; cases h; subst n
  exact readsMember_C6

theorem ReadsMember.of_memberC7 {n : BitVec 3} {f : List Byte → Decoded Instr}
    (h : memberC7 n = some f) : ReadsMember 0xC7 n f := by
  unfold memberC7 at h
  split_ifs at h; cases h; subst n
  exact readsMember_C7

theorem ReadsMember.of_memberD0 {n : BitVec 3} {f : List Byte → Decoded Instr}
    (h : memberD0 n = some f) : ReadsMember 0xD0 n f := by
  unfold memberD0 at h
  split_ifs at h; cases h; subst n
  exact .formRM Reg8.code_ofCode (fun _ => rfl) fun _ => rfl

theorem ReadsMember.of_memberD1 {n : BitVec 3} {f : List Byte → Decoded Instr}
    (h : memberD1 n = some f) : ReadsMember 0xD1 n f := by
  unfold memberD1 at h
  split_ifs at h; cases h; subst n
  exact .formRM Reg16.code_ofCode (fun _ => rfl) fun _ => rfl

theorem Handler.decode_readsEncodings (h : Handler) (r : BitVec 3) :
    ReadsEncodings (h.opcode r) (h.decode (h.opcode r)) := by
  cases h <;> simp only [Handler.decode, Handler.opcode, rmField_packOpcode]
  case movRm8R8 | movR8Rm8 | subR8 | cmpR8 =>
    exact .formReg Reg8.code_ofCode (fun _ _ => rfl) fun _ _ => by simp [encode]
  case movRm16R16 | movR16Rm16 | subR16 | cmpR16 =>
    exact .formReg Reg16.code_ofCode (fun _ _ => rfl) fun _ _ => by simp [encode]
  case movSreg => exact .formSreg
  case movAlMoffs | movAxMoffs | call => exact .formImm16 (fun _ => rfl) fun _ => rfl
  case movR8Imm => exact .formImm8 (fun _ => rfl) fun _ => by simp [encode]
  case movR16Imm => exact .formImm16 (fun _ => rfl) fun _ => by simp [encode]
  case pushR | popR => exact .ok rfl (by simp [encode])
  case jz | jnz | jl | jmp | int => exact .formImm8 (fun _ => rfl) fun _ => rfl
  case ret | scasb => exact .ok rfl rfl
  case prefixF2 => exact .formF2
  case group80 => exact .decodeGroup fun _ _ => .of_member80
  case group81 => exact .decodeGroup fun _ _ => .of_member81
  case group83 => exact .decodeGroup fun _ _ => .of_member83
  case groupC6 => exact .decodeGroup fun _ _ => .of_memberC6
  case groupC7 => exact .decodeGroup fun _ _ => .of_memberC7
  case groupD0 => exact .decodeGroup fun _ _ => .of_memberD0
  case groupD1 => exact .decodeGroup fun _ _ => .of_memberD1

/-- Settles O2: the entry of the dispatch table gives the opcode byte back, and each form reads the
bytes that encode what it answers. -/
theorem decodedBytesAreTheEncoding : Obligations.DecodedBytesAreTheEncoding := by
  intro bs i rest h
  cases bs with
  | nil => cases h
  | cons op tl =>
    simp only [decode] at h
    split at h
    · cases h
    · rename_i hd hh
      rw [eq_opcode_of_dispatchTable hh] at h ⊢
      exact hd.decode_readsEncodings _ _ _ _ h

/-! #### Rows of the opcode table (30_encoding.md R113) -/

/-- The rows of spec/opcode_table.json. -/
def opcodeRows : List OpcodeRow :=
  [⟨1, 0x88, 0xFF⟩, ⟨1, 0x89, 0xFF⟩, ⟨1, 0x8A, 0xFF⟩, ⟨1, 0x8B, 0xFF⟩, ⟨1, 0x8E, 0xFF⟩,
    ⟨1, 0xA0, 0xFF⟩, ⟨1, 0xA1, 0xFF⟩, ⟨1, 0xB0, 0xF8⟩, ⟨1, 0xB8, 0xF8⟩, ⟨2, 0xC600, 0xFF38⟩,
    ⟨2, 0xC700, 0xFF38⟩, ⟨1, 0x2A, 0xFF⟩, ⟨1, 0x2B, 0xFF⟩, ⟨1, 0x3A, 0xFF⟩, ⟨1, 0x3B, 0xFF⟩,
    ⟨2, 0x8328, 0xFF38⟩, ⟨2, 0x8338, 0xFF38⟩, ⟨2, 0x8038, 0xFF38⟩, ⟨2, 0x8020, 0xFF38⟩,
    ⟨2, 0x8120, 0xFF38⟩, ⟨2, 0x8320, 0xFF38⟩, ⟨2, 0xD028, 0xFF38⟩, ⟨2, 0xD128, 0xFF38⟩,
    ⟨1, 0x50, 0xF8⟩, ⟨1, 0x58, 0xF8⟩, ⟨1, 0x74, 0xFF⟩, ⟨1, 0x75, 0xFF⟩, ⟨1, 0x7C, 0xFF⟩,
    ⟨1, 0xEB, 0xFF⟩, ⟨1, 0xE8, 0xFF⟩, ⟨1, 0xC3, 0xFF⟩, ⟨1, 0xAE, 0xFF⟩, ⟨2, 0xF2AE, 0xFFFF⟩,
    ⟨1, 0xCD, 0xFF⟩]

theorem Instr.row_mem_opcodeRows (i : Instr) : i.row ∈ opcodeRows := by
  cases i <;> simp only [Instr.row] <;> decide

/-- Pattern and mask of a row over the first two bytes: a row of one byte asks nothing of the
second. -/
def OpcodeRow.pattern16 (r : OpcodeRow) : Nat := r.pattern * 256 ^ (2 - r.width)

def OpcodeRow.mask16 (r : OpcodeRow) : Nat := r.mask * 256 ^ (2 - r.width)

/-- No two rows agree on the bits both ask for. -/
theorem opcodeRows_clash : ∀ r ∈ opcodeRows, ∀ q ∈ opcodeRows,
    r.pattern16 &&& q.mask16 = q.pattern16 &&& r.mask16 → r = q := by
  decide

theorem OpcodeRow.width_of_mem : ∀ r ∈ opcodeRows, r.width = 1 ∨ r.width = 2 := by decide

/-- The first two bytes as one number, missing bytes 0. -/
def leading16 (bs : List Byte) : Nat := (bs.getD 0 0).toNat * 256 + (bs.getD 1 0).toNat

theorem and_mul_256 (a m : Nat) {b : Nat} (hb : b < 256) :
    (a * 256 + b) &&& (m * 256) = (a &&& m) * 256 := by
  apply Nat.eq_of_testBit_eq
  intro j
  have hb : b < 2 ^ 8 := hb
  rw [Nat.mul_comm a, Nat.testBit_and, show 256 = 2 ^ 8 from rfl,
    Nat.testBit_two_pow_mul_add _ hb, Nat.testBit_mul_two_pow, Nat.testBit_mul_two_pow,
    Nat.testBit_and]
  by_cases hj : j < 8
  · simp [hj, Nat.not_le.mpr hj]
  · simp [hj, Nat.not_lt.mp hj]

theorem OpcodeRow.and_of_matches {r : OpcodeRow} (hr : r ∈ opcodeRows) {bs : List Byte}
    (h : r.matches bs = true) : leading16 bs &&& r.mask16 = r.pattern16 := by
  obtain ⟨w, p, m⟩ := r
  have hw : w = 1 ∨ w = 2 := OpcodeRow.width_of_mem _ hr
  rcases hw with rfl | rfl
  · match bs with
    | [] => cases h
    | b :: tl =>
      have h : b.toNat &&& m = p := by simpa [OpcodeRow.matches, leadingNumber] using h
      simpa [leading16, OpcodeRow.mask16, OpcodeRow.pattern16, h] using
        and_mul_256 b.toNat m (tl.getD 0 0).isLt
  · match bs with
    | [] | [_] => cases h
    | b :: c :: tl =>
      simpa [OpcodeRow.matches, leadingNumber, leading16, OpcodeRow.mask16, OpcodeRow.pattern16]
        using h

/-- The bytes of an instruction match at most one row. -/
theorem OpcodeRow.eq_of_matches {r q : OpcodeRow} (hr : r ∈ opcodeRows) (hq : q ∈ opcodeRows)
    {bs : List Byte} (h : r.matches bs = true) (h' : q.matches bs = true) : r = q := by
  refine opcodeRows_clash r hr q hq ?_
  rw [← OpcodeRow.and_of_matches hr h, ← OpcodeRow.and_of_matches hq h']
  exact Nat.and_right_comm _ _ _

theorem RM.modrm_eq_pack {ρ : Type} (num : ρ → BitVec 3) (reg : BitVec 3) (rm : RM ρ) :
    ∃ md r, rm.modrm num reg = packModrm md reg r := by
  cases rm <;> exact ⟨_, _, rfl⟩

theorem matches_one {op : Byte} {p m : Nat} (h : op.toNat &&& m = p) (tl : List Byte) :
    OpcodeRow.matches ⟨1, p, m⟩ (op :: tl) = true := by
  simpa [OpcodeRow.matches, leadingNumber] using h

/-- A group row asks for the opcode byte and the reg field. -/
theorem matches_group {ρ : Type} {op : Byte} {reg : BitVec 3} {p : Nat}
    (h : ∀ md r, (op.toNat * 256 + (packModrm md reg r).toNat) &&& 0xFF38 = p)
    (num : ρ → BitVec 3) (rm : RM ρ) (tl : List Byte) :
    OpcodeRow.matches ⟨2, p, 0xFF38⟩ (op :: (rm.bytes num reg ++ tl)) = true := by
  obtain ⟨ds, hb⟩ := rm.bytes_eq_cons num reg
  obtain ⟨md, r, hm⟩ := rm.modrm_eq_pack num reg
  simpa [OpcodeRow.matches, leadingNumber, hb, hm] using h md r

set_option maxRecDepth 4000 in
theorem Instr.row_matches_encode (i : Instr) (rest : List Byte) :
    i.row.matches (encode i ++ rest) = true := by
  cases i <;> simp only [Instr.row, encode, List.cons_append, List.append_assoc]
  case movR8Imm8 dst _ | movR16Imm16 dst _ | pushR16 dst | popR16 dst =>
    exact matches_one (by cases dst <;> rfl) _
  case movRm8Imm8 | movRm16Imm16 | subRm16Imm8 | cmpRm16Imm8 | cmpRm8Imm8 | andRm8Imm8 |
      andRm16Imm16 | andRm16Imm8 | shrRm8 | shrRm16 =>
    exact matches_group (by decide) _ _ _
  case repneScasb => rfl
  all_goals exact matches_one rfl _

/-- Settles O3: an encoding shows the opcode and reg field its row asks for, and no two rows can
both be met, since they differ in a bit both ask for. -/
theorem encodingMatchesItsRowAlone : Obligations.EncodingMatchesItsRowAlone := fun i j rest =>
  ⟨i.row_matches_encode rest, fun h => OpcodeRow.eq_of_matches j.row_mem_opcodeRows
    i.row_mem_opcodeRows h (i.row_matches_encode rest)⟩

/-- Settles O4: `decode` computes. -/
theorem wordsOfTheSpecDecode : Obligations.WordsOfTheSpecDecode := by
  unfold Obligations.WordsOfTheSpecDecode
  decide

/-! #### Bytes that are no instruction -/

theorem modField_toNat (b : Byte) : (modField b).toNat = b.toNat / 64 := by
  have := b.isLt
  simp only [modField, BitVec.extractLsb'_toNat, Nat.shiftRight_eq_div_pow]
  omega

theorem regField_toNat (b : Byte) : (regField b).toNat = b.toNat / 8 % 8 := by
  simp [regField, Nat.shiftRight_eq_div_pow]

set_option maxRecDepth 4000 in
/-- Every opcode the dispatch table has is one of 30_encoding.md R108. -/
theorem dispatchTable_eq_none : ∀ op : Byte,
    op.toNat ∉ [0x2A, 0x2B, 0x3A, 0x3B, 0x50, 0x51, 0x52, 0x53, 0x54, 0x55, 0x56, 0x57,
      0x58, 0x59, 0x5A, 0x5B, 0x5C, 0x5D, 0x5E, 0x5F, 0x74, 0x75, 0x7C, 0x80, 0x81, 0x83,
      0x88, 0x89, 0x8A, 0x8B, 0x8E, 0xA0, 0xA1, 0xAE] →
    op.toNat ∉ [0xB0, 0xB1, 0xB2, 0xB3, 0xB4, 0xB5, 0xB6, 0xB7, 0xB8, 0xB9, 0xBA, 0xBB,
      0xBC, 0xBD, 0xBE, 0xBF, 0xC3, 0xC6, 0xC7, 0xCD, 0xD0, 0xD1, 0xE8, 0xEB, 0xF2] →
    dispatchTable op = none := by
  decide

theorem decodeGroup_of_isNone {member : BitVec 3 → Option (List Byte → Decoded Instr)}
    {modrm : Byte} (h : (member (regField modrm)).isNone = true) (op : Byte) (rest : List Byte) :
    decodeGroup op member (modrm :: rest) = .bad (.unknownOpcode op (some modrm)) := by
  simp only [decodeGroup, Option.isNone_iff_eq_none.mp h]

theorem eq_ofNat_of_toNat {w k : Nat} {x : BitVec w} (h : x.toNat = k) : x = BitVec.ofNat w k := by
  simp [← h]

/-- A reg field that is no member of its group (30_encoding.md R101). -/
theorem decode_group_unknown {op modrm : Byte} (rest : List Byte)
    (hop : op.toNat ∈ [0x80, 0x81, 0x83, 0xC6, 0xC7, 0xD0, 0xD1])
    (hreg : (op.toNat, modrm.toNat / 8 % 8) ∉ [(0x80, 4), (0x80, 7), (0x81, 4), (0x83, 4),
      (0x83, 5), (0x83, 7), (0xC6, 0), (0xC7, 0), (0xD0, 5), (0xD1, 5)]) :
    decode (op :: modrm :: rest) = .bad (.unknownOpcode op (some modrm)) := by
  obtain ⟨member, hd, hm⟩ : ∃ member, decode (op :: modrm :: rest) =
      decodeGroup op member (modrm :: rest) ∧ (member (regField modrm)).isNone = true := by
    rw [← regField_toNat] at hreg
    generalize regField modrm = n at hreg
    simp only [List.mem_cons, List.not_mem_nil, or_false] at hop
    rcases hop with h | h | h | h | h | h | h <;>
      obtain rfl := eq_ofNat_of_toNat h <;>
      exact ⟨_, rfl, by revert n; decide⟩
  rw [hd, decodeGroup_of_isNone hm]

/-- C6 and C7 with member 0 and a register operand (40_operand_resolver.md R138). -/
theorem decode_immToRegister {modrm : Byte} (rest : List Byte) (hmd : modField modrm = 3)
    (hreg : regField modrm = 0) :
    decode (0xC6 :: modrm :: rest) = .bad (.unsupportedOperand 0xC6 modrm) ∧
    decode (0xC7 :: modrm :: rest) = .bad (.unsupportedOperand 0xC7 modrm) := by
  have hC6 : decode (0xC6 :: modrm :: rest) = decodeGroup 0xC6 memberC6 (modrm :: rest) := rfl
  have hC7 : decode (0xC7 :: modrm :: rest) = decodeGroup 0xC7 memberC7 (modrm :: rest) := rfl
  rw [hC6, hC7]
  simp [decodeGroup, hreg, memberC6, memberC7, memOnly, hmd]

/-- 8E with a field that names no segment register (42_data_movement.md R185). -/
theorem decode_badSegment {modrm : Byte} (rest : List Byte)
    (hreg : sregFieldOk (regField modrm) = false) :
    decode (0x8E :: modrm :: rest) = .bad (.unsupportedOperand 0x8E modrm) := by
  have hd : decode (0x8E :: modrm :: rest) = formSreg (modrm :: rest) := rfl
  simp only [hd, formSreg, hreg, Bool.false_eq_true, if_false]

/-- What is cut off at the end of an encoding is missed: an answer from fewer bytes would stay the
answer with all of them, and leave bytes over. -/
theorem decode_take_encode {i : Instr} {n : Nat} (hw : i.wf = true) (hn : n < (encode i).length) :
    decode ((encode i).take n) = .bad .truncated := by
  have hall : decode (encode i) = .ok i [] := by simpa using decodeInvertsEncode i [] hw
  rcases decode_append ((encode i).take n) ((encode i).drop n) with h | h
  · exact h
  · rw [List.take_append_drop, hall] at h
    cases hd : decode ((encode i).take n) with
    | bad e => rw [hd] at h; cases h
    | ok j r =>
      rw [hd] at h
      have hnil : (encode i).drop n = [] := (List.append_eq_nil_iff.mp (Decoded.ok.inj h).2.symm).2
      exact absurd (List.drop_eq_nil_iff.mp hnil) (by omega)

/-- Settles O5: clause by clause, by what the dispatch table, the groups and the forms reject. -/
theorem rejectedBytesGetTheirReason : Obligations.RejectedBytesGetTheirReason := by
  refine ⟨fun op rest h h' => ?_, fun op modrm rest => decode_group_unknown rest,
    fun next rest hne => ?_, fun modrm rest hmd hreg => ?_, fun modrm rest hreg => ?_,
    fun i n => decode_take_encode⟩
  · simp only [decode, dispatchTable_eq_none op h h']
  · have hd : decode (0xF2 :: next :: rest) = formF2 (next :: rest) := rfl
    simp only [hd, formF2, if_neg hne]
  · exact decode_immToRegister rest (BitVec.eq_of_toNat_eq ((modField_toNat _).trans hmd))
      (BitVec.eq_of_toNat_eq ((regField_toNat _).trans hreg))
  · refine decode_badSegment rest (decide_eq_false ?_)
    rw [regField_toNat]; omega

end Sys2Proof

/-! ### What a step can do (30_encoding.md R92) -/

namespace Sys2Proof.Machine

open Sys2Proof.Config

theorem State.fetched_eq (s : State) : s.fetched =
    { s with pc := s.pc + 1, curOpcode := s.mem.read s.pc, instrCount := s.instrCount + 1 } := rfl

/-- The condition of bytes the decoder rejects, `index` being the first index past them. -/
def rejectedCond (index : Nat) : DecodeError → Cond
  | .truncated => .fetchOutOfRange index
  | .unknownOpcode op modrm => .unknownOpcode op modrm
  | .unsupportedOperand op modrm => .unsupportedOperand op modrm

theorem runFetched_of_bad {bytes : List Byte} {start : Nat} {s : State} {e : DecodeError}
    (hd : decode bytes = .bad e) (hx : ∀ op modrm, e = .unknownOpcode op modrm →
      op ∉ s.cfg.extraOpcodes) :
    runFetched bytes start s = .next (s.raiseAt start (rejectedCond (start + bytes.length) e)) := by
  cases e with
  | unknownOpcode op modrm => simp only [runFetched, hd, rejectedCond, if_neg (hx op modrm rfl)]
  | _ => simp only [runFetched, hd, rejectedCond]

theorem runFetched_of_extra {bytes : List Byte} {start : Nat} {s : State} {op : Byte}
    {modrm : Option Byte} (hd : decode bytes = .bad (.unknownOpcode op modrm))
    (hx : op ∈ s.cfg.extraOpcodes) :
    runFetched bytes start s = .refused (.extraOpcode op) := by
  simp only [runFetched, hd, if_pos hx]

theorem runFetched_of_ok {bytes rest : List Byte} {start : Nat} {s : State} {i : Instr}
    (hd : decode bytes = .ok i rest) : runFetched bytes start s = exec i s := by
  simp only [runFetched, hd]

/-- The ways a step from `s` ends in a next state. -/
inductive StepOutcome (s : State) : State → Prop
  | polls (hb : s.blocked = true) : StepOutcome s s.pollKey
  | fetchFails (hb : s.blocked = false) (hpc : s.cfg.memSize ≤ s.pc) :
    StepOutcome s (s.raiseAt s.pc (.fetchOutOfRange s.pc))
  | rejects (hb : s.blocked = false) (hpc : s.pc < s.cfg.memSize) {e : DecodeError}
    (hd : decode (s.window maxLength) = .bad e) :
    StepOutcome s (s.fetched.raiseAt s.pc (rejectedCond (s.pc + (s.window maxLength).length) e))
  | runs (hb : s.blocked = false) (hpc : s.pc < s.cfg.memSize) {i : Instr} {rest : List Byte}
    {t : State} (hd : decode (s.window maxLength) = .ok i rest)
    (hx : exec i s.fetched = .next t) : StepOutcome s t

/-- A step is taken from a running core, and ends in one of the ways of `StepOutcome`. -/
theorem step_cases {s t : State} (h : step s = .next t) :
    s.runState = .running ∧ StepOutcome s t := by
  cases hr : s.runState with
  | halted r => rw [step_of_halted hr] at h; cases h
  | running =>
    refine ⟨rfl, ?_⟩
    cases hb : s.blocked with
    | true =>
      rw [step_of_blocked hr hb] at h
      exact Host.Outcome.next.inj h ▸ .polls hb
    | false =>
      rw [step_of_running hr hb] at h
      rcases Nat.lt_or_ge s.pc s.cfg.memSize with hpc | hpc
      · rw [runInstruction_inside hpc] at h
        cases hd : decode (s.window maxLength) with
        | ok i rest => exact .runs hb hpc hd (runFetched_of_ok hd ▸ h)
        | bad e =>
          by_cases hx : ∃ op modrm, e = .unknownOpcode op modrm ∧ op ∈ s.fetched.cfg.extraOpcodes
          · obtain ⟨op, modrm, rfl, hx⟩ := hx
            rw [runFetched_of_extra hd hx] at h; cases h
          · rw [runFetched_of_bad hd fun op modrm he hm => hx ⟨op, modrm, he, hm⟩] at h
            exact Host.Outcome.next.inj h ▸ .rejects hb hpc hd
      · rw [runInstruction_outside hpc] at h
        exact Host.Outcome.next.inj h ▸ .fetchFails hb hpc

/-! ### The invariant -/

/-- Only the image, its size, the call stack and an end of the run can break the invariant. -/
theorem State.Inv.of_running {s t : State} (hs : s.Inv) (hmem : t.mem = s.mem)
    (hcfg : t.cfg = s.cfg) (hcall : t.callStack = s.callStack) (hrun : t.runState = .running) :
    t.Inv where
  memCanonical := hmem ▸ hs.memCanonical
  memInside := by rw [hmem, hcfg]; exact hs.memInside
  callStackBounded := hcall ▸ hs.callStackBounded
  haltReported r h := by rw [hrun] at h; cases h
  haltNotBlocked r h := by rw [hrun] at h; cases h

theorem State.Inv.raiseAt {s : State} (hs : s.Inv) (hb : s.blocked = false) (start : Nat)
    (c : Cond) : (s.raiseAt start c).Inv where
  memCanonical := hs.memCanonical
  memInside := hs.memInside
  callStackBounded := hs.callStackBounded
  haltReported _ h := by
    cases h
    exact .inr ⟨start, s.diag, c.event start, rfl, c, rfl, rfl⟩
  haltNotBlocked _ _ := hb

theorem State.Inv.of_archChange {s t : State} (hs : s.Inv) (h : ArchChange s t) : t.Inv := by
  obtain ⟨hrun, hdiag⟩ := h.completes
  have hback := h.sameBackground
  refine ⟨h.memWf hs.memCanonical, fun c hc => ?_, h.callStackBounded hs.callStackBounded, ?_, ?_⟩
  · rw [hback.cfg]
    exact (h.memInside c hc).elim (hs.memInside c) id
  · rw [hrun, hdiag]; exact hs.haltReported
  · rw [hrun, hback.blocked]; exact hs.haltNotBlocked

theorem State.pollKey_runState (s : State) : s.pollKey.runState = s.runState := by
  rcases s.pollKey_cases with ⟨b, -, e⟩ | ⟨-, e⟩
  · rw [e, State.dropKey_eq]; rfl
  · rw [e, State.dropKey_eq]

theorem State.Inv.pollKey {s : State} (hs : s.Inv) (hrun : s.runState = .running) :
    s.pollKey.Inv := by
  rcases s.pollKey_cases with ⟨b, -, e⟩ | ⟨-, e⟩
  · rw [e, State.dropKey_eq]; exact hs.of_running rfl rfl rfl hrun
  · rw [e, State.dropKey_eq]; exact hs.of_running rfl rfl rfl hrun

theorem State.Inv.fetched {s : State} (hs : s.Inv) (hrun : s.runState = .running) :
    s.fetched.Inv := hs.of_running rfl rfl rfl hrun

theorem State.Inv.int {n : Byte} {s t : State} (hs : s.Inv) (hrun : s.runState = .running)
    (hb : s.blocked = false) (h : IntOutcome n s t) : t.Inv := by
  cases h with
  | writeStringFails _ es a =>
    have hio : { s with io := s.io ++ es }.Inv := hs.of_running rfl rfl rfl hrun
    exact hio.raiseAt hb _ _
  | exit =>
    exact ⟨hs.memCanonical, hs.memInside, hs.callStackBounded,
      fun _ h => .inl ⟨_, (RunState.halted.inj h).symm⟩, fun _ _ => hb⟩
  | _ => exact hs.of_running rfl rfl rfl hrun

theorem State.Inv.exec {i : Instr} {s t : State} (hs : s.Inv) (hrun : s.runState = .running)
    (hb : s.blocked = false) (h : exec i s = .next t) : t.Inv := by
  by_cases hi : ∃ n, i = .int n
  · obtain ⟨n, rfl⟩ := hi
    exact hs.int hrun hb (exec_int_cases h)
  · rcases exec_cases (fun n hn => hi ⟨n, hn⟩) h with h | ⟨c, rfl⟩
    · exact hs.of_archChange h
    · exact hs.raiseAt hb _ c

/-- Settles O13: by the outcomes of a step. A poll and the opcode fetch touch nothing the invariant
speaks of, a raised condition is reported last, and an instruction keeps it. -/
theorem everyStepKeepsTheInvariant : Obligations.EveryStepKeepsTheInvariant := by
  intro s t hs h
  obtain ⟨hrun, h⟩ := step_cases h
  cases h with
  | polls => exact hs.pollKey hrun
  | fetchFails hb => exact hs.raiseAt hb _ _
  | rejects hb => exact (hs.fetched hrun).raiseAt hb _ _
  | runs hb _ _ hx => exact (hs.fetched hrun).exec hrun hb hx

/-! ### Reset (10_state.md section 9) -/

/-- Settles O12: the image is laid out from the file bytes up to `MEM_SIZE`, and the core runs. -/
theorem everyBootHasTheInvariant : Obligations.EveryBootHasTheInvariant := by
  intro p h
  refine ⟨Mem.ofImage_wf _ _, fun c hc => ?_, Nat.zero_le _, nofun, nofun⟩
  have hlt := (Mem.mem_ofImage hc).2.1
  rw [List.length_take] at hlt
  exact show c.1 < p.memSize by omega

/-- Settles O11: reset is a boot. -/
theorem resetHasTheInvariant : Obligations.ResetHasTheInvariant :=
  everyBootHasTheInvariant Params.default Handoff.default

theorem Mem.read_ofImage (a k : Nat) (bs : List Byte) :
    (Mem.ofImage a bs).read (a + k) = bs.getD k 0 := by
  induction bs generalizing a k with
  | nil => rfl
  | cons b bs ih =>
    have hblank : (Mem.ofImage (a + 1) bs).read a = Mem.blank :=
      Mem.read_below fun c hc => (Mem.mem_ofImage hc).1
    cases k with
    | zero =>
      unfold Mem.ofImage
      split
      · exact hblank.trans (Eq.symm ‹b = Mem.blank›)
      · simp [Mem.read]
    | succ k =>
      have hk := ih (a + 1) k
      rw [Nat.add_right_comm] at hk
      unfold Mem.ofImage
      split
      · exact hk
      · have hne : a ≠ a + k + 1 := by omega
        simpa [Mem.read, ← Nat.add_assoc, hne] using hk

/-- Settles O14: the fields as `State.boot` writes them, and the image byte by byte. -/
theorem bootLeavesTheResetValues : Obligations.BootLeavesTheResetValues := by
  intro p h
  refine ⟨fun r => by cases r <;> rfl, fun g => by cases g <;> rfl, rfl,
    fun f => by cases f <;> rfl, rfl, rfl, rfl, rfl, rfl, rfl, rfl, rfl, fun a ha => ?_⟩
  have hread := Mem.read_ofImage 0 a (h.image.take p.memSize)
  rw [Nat.zero_add] at hread
  simp only [State.boot, hread, List.getD_eq_getElem?_getD, List.getElem?_take_of_lt ha]

/-! ### Precise faults (60_exceptions.md R344) -/

/-- `t` is `u` halted for `r` by the instruction at `start`, reported, with nothing changed but
collaborator calls already made. -/
def State.PreciseHalt (u t : State) (start : Nat) (r : HaltReason) : Prop :=
  ∃ d es, Reports start r d ∧
    t = { u with runState := .halted r, diag := u.diag ++ [d], io := u.io ++ es }

theorem State.raiseAt_preciseHalt (u : State) (start : Nat) (c : Cond) :
    u.PreciseHalt (u.raiseAt start c) start (c.reason start) :=
  ⟨c.event start, [], ⟨c, rfl, rfl⟩, by rw [List.append_nil]; rfl⟩

/-- An instruction that halts the run for another reason than EXIT does nothing else. -/
theorem exec_preciseHalt {i : Instr} {s t : State} {r : HaltReason} (hrun : s.runState = .running)
    (h : exec i s = .next t) (ht : t.runState = .halted r) (hr : ∀ code, r ≠ .exit code) :
    s.PreciseHalt t (s.pc - 1) r := by
  have hne : t.runState ≠ s.runState := by rw [ht, hrun]; exact nofun
  by_cases hi : ∃ n, i = .int n
  · obtain ⟨n, rfl⟩ := hi
    cases exec_int_cases h with
    | writeStringFails _ es a => cases ht; exact ⟨_, es, ⟨_, rfl, rfl⟩, rfl⟩
    | exit => cases ht; exact absurd rfl (hr _)
    | _ => exact absurd rfl hne
  · rcases exec_cases (fun n hn => hi ⟨n, hn⟩) h with h | ⟨c, rfl⟩
    · exact absurd h.completes.1 hne
    · cases ht; exact s.raiseAt_preciseHalt _ c

/-- Settles O20: a halt comes from the opcode fetch, from the decoder, or from the instruction,
whose index is one before the pc its handler starts with. -/
theorem faultsArePrecise : Obligations.FaultsArePrecise := by
  intro s t r hrun h ht hr
  cases (step_cases h).2 with
  | polls => rw [s.pollKey_runState, hrun] at ht; cases ht
  | fetchFails _ hpc =>
    rw [if_neg (Nat.not_lt.mpr hpc)]
    cases ht; exact s.raiseAt_preciseHalt _ _
  | rejects _ hpc =>
    rw [if_pos hpc]
    cases ht; exact s.fetched.raiseAt_preciseHalt _ _
  | runs _ hpc _ hx =>
    rw [if_pos hpc]
    exact exec_preciseHalt (s := s.fetched) hrun hx ht hr

/-! ### The records and VideoMode -/

/-- From `s` to `t` diagnostics and collaborator calls only grow, and parameters stay. -/
structure RecordsGrow (s t : State) : Prop where
  diag : ∃ ds, t.diag = s.diag ++ ds
  io : ∃ es, t.io = s.io ++ es
  cfg : t.cfg = s.cfg

theorem RecordsGrow.raiseAt (s : State) (start : Nat) (c : Cond) :
    RecordsGrow s (s.raiseAt start c) :=
  ⟨⟨_, rfl⟩, ⟨[], (List.append_nil _).symm⟩, rfl⟩

theorem RecordsGrow.of_eq {s t : State} (hd : t.diag = s.diag) (hio : t.io = s.io)
    (hcfg : t.cfg = s.cfg) : RecordsGrow s t :=
  ⟨⟨[], by rw [hd, List.append_nil]⟩, ⟨[], by rw [hio, List.append_nil]⟩, hcfg⟩

theorem RecordsGrow.int {n : Byte} {s t : State} (h : IntOutcome n s t) : RecordsGrow s t := by
  cases h with
  | setMode | setColor | readDone | writeChar | writeString =>
    exact ⟨⟨[], (List.append_nil _).symm⟩, ⟨_, rfl⟩, rfl⟩
  | writeStringFails => exact ⟨⟨_, rfl⟩, ⟨_, rfl⟩, rfl⟩
  | unsupported => exact ⟨⟨_, rfl⟩, ⟨[], (List.append_nil _).symm⟩, rfl⟩
  | _ => exact .of_eq rfl rfl rfl

theorem exec_records {i : Instr} {s t : State} (h : exec i s = .next t) :
    RecordsGrow s t ∧ t.instrCount = s.instrCount := by
  by_cases hi : ∃ n, i = .int n
  · obtain ⟨n, rfl⟩ := hi
    have h := exec_int_cases h
    exact ⟨.int h, by cases h <;> rfl⟩
  · rcases exec_cases (fun n hn => hi ⟨n, hn⟩) h with h | ⟨c, rfl⟩
    · have hback := h.sameBackground
      exact ⟨.of_eq h.completes.2 hback.io hback.cfg, hback.instrCount⟩
    · exact ⟨.raiseAt s _ c, rfl⟩

theorem State.pollKey_records (s : State) :
    RecordsGrow s s.pollKey ∧ s.pollKey.instrCount = s.instrCount := by
  rcases s.pollKey_cases with ⟨b, -, e⟩ | ⟨-, e⟩
  · rw [e, State.dropKey_eq]; exact ⟨⟨⟨[], (List.append_nil _).symm⟩, ⟨_, rfl⟩, rfl⟩, rfl⟩
  · rw [e, State.dropKey_eq]; exact ⟨.of_eq rfl rfl rfl, rfl⟩

/-- Settles O16: by the outcomes of a step; the opcode fetch is the one place that counts. -/
theorem stepsOnlyExtendTheRecords : Obligations.StepsOnlyExtendTheRecords := by
  intro s t h
  suffices hs : RecordsGrow s t ∧ t.instrCount =
      if s.blocked = false ∧ s.pc < s.cfg.memSize then s.instrCount + 1 else s.instrCount from
    ⟨hs.1.diag, hs.1.io, hs.1.cfg, hs.2⟩
  cases (step_cases h).2 with
  | polls hb =>
    rw [if_neg (by simp [hb])]
    exact s.pollKey_records
  | fetchFails _ hpc =>
    rw [if_neg fun hc => Nat.not_lt.mpr hpc hc.2]
    exact ⟨.raiseAt s _ _, rfl⟩
  | rejects hb hpc =>
    rw [if_pos ⟨hb, hpc⟩]
    exact ⟨⟨⟨_, rfl⟩, ⟨[], (List.append_nil _).symm⟩, rfl⟩, rfl⟩
  | runs hb hpc _ hx =>
    rw [if_pos ⟨hb, hpc⟩]
    obtain ⟨⟨hdiag, hio, hcfg⟩, hcount⟩ := exec_records hx
    exact ⟨⟨hdiag, hio, hcfg⟩, hcount⟩

/-- Settles O15: an instruction other than INT leaves VideoMode alone, and of the outcomes of INT
only set mode writes it. -/
theorem videoModeIsSetByOneServiceAndNeverCleared :
    Obligations.VideoModeIsSetByOneServiceAndNeverCleared := by
  intro i s t h
  by_cases hi : ∃ n, i = .int n
  · obtain ⟨n, rfl⟩ := hi
    cases exec_int_cases h with
    | setMode hm =>
      obtain ⟨rfl, hah, hal⟩ := hm
      exact ⟨fun _ => rfl, fun _ => .inr ⟨rfl, hah, hal⟩⟩
    | _ => exact ⟨id, .inl⟩
  · have hsame : t.videoMode = s.videoMode := by
      rcases exec_cases (fun n hn => hi ⟨n, hn⟩) h with h | ⟨c, rfl⟩
      · exact h.sameBackground.videoMode
      · rfl
    exact ⟨fun hv => hsame ▸ hv, fun hv => .inl (hsame ▸ hv)⟩

/-! ### Where UNKNOWN_OPCODE and EXIT come from (10_state.md section 7) -/

/-- If the result is a condition, it is another one than UNKNOWN_OPCODE. -/
def RaisesKnown {α : Type} (r : Except Cond α) : Prop :=
  ∀ op modrm, r ≠ .error (.unknownOpcode op modrm)

theorem RaisesKnown.ite {α : Type} {p : Prop} [Decidable p] {r r' : Except Cond α}
    (hr : RaisesKnown r) (hr' : RaisesKnown r') : RaisesKnown (if p then r else r') := by
  split
  · exact hr
  · exact hr'

theorem raisesKnown_read8 (s : State) (a : Nat) : RaisesKnown (s.read8 a) := .ite nofun nofun

theorem raisesKnown_read16 (s : State) (a : Nat) : RaisesKnown (s.read16 a) := .ite nofun nofun

theorem raisesKnown_readLoc8 (s : State) : ∀ l, RaisesKnown (s.readLoc8 l)
  | .reg _ => nofun
  | .mem a => raisesKnown_read8 s a

theorem raisesKnown_readLoc16 (s : State) : ∀ l, RaisesKnown (s.readLoc16 l)
  | .reg _ => nofun
  | .mem a => raisesKnown_read16 s a

theorem raisesKnown_target (next : Nat) (d : Int) : RaisesKnown (target next d) :=
  .ite nofun nofun

/-- What a handler that runs in `s` comes to: a state in which the run goes on as in `s`, or a
condition that is not UNKNOWN_OPCODE. -/
structure RunsOrRaises (s : State) (r : Except Cond State) : Prop where
  runs : ∀ t, r = .ok t → t.runState = s.runState
  raises : RaisesKnown r

theorem RunsOrRaises.ok {s t : State} (h : t.runState = s.runState) : RunsOrRaises s (.ok t) :=
  ⟨fun _ ht => Except.ok.inj ht ▸ h, nofun⟩

theorem RunsOrRaises.error {s : State} {c : Cond} (h : ∀ op modrm, c ≠ .unknownOpcode op modrm) :
    RunsOrRaises s (.error c) :=
  ⟨fun _ ht => (by cases ht), fun op modrm hc => h op modrm (Except.error.inj hc)⟩

theorem RunsOrRaises.map {α : Type} {s : State} {r : Except Cond α} {f : α → State}
    (hr : RaisesKnown r) (hf : ∀ a, (f a).runState = s.runState) : RunsOrRaises s (r.map f) := by
  cases r with
  | ok a => exact .ok (hf a)
  | error c => exact .error fun op modrm hc => hr op modrm (congrArg _ hc)

theorem RunsOrRaises.bind {α : Type} {s : State} {r : Except Cond α} {f : α → Except Cond State}
    (hr : RaisesKnown r) (hf : ∀ a, RunsOrRaises s (f a)) : RunsOrRaises s (r.bind f) := by
  cases r with
  | ok a => exact hf a
  | error c => exact .error fun op modrm hc => hr op modrm (congrArg _ hc)

theorem RunsOrRaises.skip {s : State} {r : Except Cond State} (hr : RunsOrRaises s r) (n : Nat) :
    RunsOrRaises s (r.map (·.skip n)) := by
  cases r with
  | ok t => exact .ok (hr.runs t rfl)
  | error c => exact .error fun op modrm hc => hr.raises op modrm (congrArg _ hc)

theorem RunsOrRaises.of_runState {s u : State} {r : Except Cond State} (hr : RunsOrRaises u r)
    (h : u.runState = s.runState) : RunsOrRaises s r :=
  ⟨fun t ht => (hr.runs t ht).trans h, hr.raises⟩

theorem RunsOrRaises.ite {s : State} {p : Prop} [Decidable p] {r r' : Except Cond State}
    (hr : RunsOrRaises s r) (hr' : RunsOrRaises s r') : RunsOrRaises s (if p then r else r') := by
  split
  · exact hr
  · exact hr'

theorem runsOrRaises_write8 (s : State) (a : Nat) (v : Byte) : RunsOrRaises s (s.write8 a v) :=
  .ite (.ok rfl) (.error nofun)

theorem runsOrRaises_write16 (s : State) (a : Nat) (v : Word) : RunsOrRaises s (s.write16 a v) :=
  .ite (.ok rfl) (.error nofun)

theorem runsOrRaises_writeLoc8 (s : State) (v : Byte) : ∀ l, RunsOrRaises s (s.writeLoc8 l v)
  | .reg _ => .ok rfl
  | .mem a => runsOrRaises_write8 s a v

theorem runsOrRaises_writeLoc16 (s : State) (v : Word) : ∀ l, RunsOrRaises s (s.writeLoc16 l v)
  | .reg _ => .ok rfl
  | .mem a => runsOrRaises_write16 s a v

theorem runsOrRaises_writeImm8 (s : State) (op imm : Byte) :
    ∀ dst, RunsOrRaises s (s.writeImm8 op dst imm)
  | .reg _ => .error nofun
  | .mem m => runsOrRaises_write8 s (s.addr m) imm

theorem runsOrRaises_writeImm16 (s : State) (op : Byte) (imm : Word) :
    ∀ dst, RunsOrRaises s (s.writeImm16 op dst imm)
  | .reg _ => .error nofun
  | .mem m => runsOrRaises_write16 s (s.addr m) imm

theorem runsOrRaises_modify8 (s : State) (dst : RM8) (f : Byte → Byte) (n : Nat) :
    RunsOrRaises s (s.modify8 dst f n) :=
  .bind (raisesKnown_readLoc8 s _) fun _ => (runsOrRaises_writeLoc8 s _ _).skip n

theorem runsOrRaises_modify16 (s : State) (dst : RM16) (f : Word → Word) (n : Nat) :
    RunsOrRaises s (s.modify16 dst f n) :=
  .bind (raisesKnown_readLoc16 s _) fun _ => (runsOrRaises_writeLoc16 s _ _).skip n

theorem runsOrRaises_push16 (s : State) (v : Word) : RunsOrRaises s (s.push16 v) := by
  rcases s.push16_cases v with ⟨-, e⟩ | ⟨-, e⟩ <;> rw [e]
  · exact .ok rfl
  · exact .error nofun

theorem runsOrRaises_jumpShort (s : State) (taken : Bool) (rel : Byte) :
    RunsOrRaises s (s.jumpShort taken rel) :=
  .ite (.map (raisesKnown_target _ _) fun _ => rfl) (.ok rfl)

theorem runsOrRaises_scanString (s : State) (n : Nat) : RunsOrRaises s (s.scanString n) := by
  unfold State.scanString
  dsimp only
  split
  · exact .error nofun
  · exact .ok rfl

/-- An instruction other than INT is a handler whose result runs on or raises a known condition. -/
theorem exec_eq_settle {i : Instr} (hi : ∀ n, i ≠ .int n) (s : State) :
    ∃ r, exec i s = s.settle r ∧ RunsOrRaises s r := by
  cases i
  case int n => exact absurd rfl (hi n)
  case movRm8R8 => exact ⟨_, rfl, (runsOrRaises_writeLoc8 s _ _).skip _⟩
  case movRm16R16 => exact ⟨_, rfl, (runsOrRaises_writeLoc16 s _ _).skip _⟩
  case movR8Rm8 => exact ⟨_, rfl, .map (raisesKnown_readLoc8 s _) fun _ => rfl⟩
  case movR16Rm16 => exact ⟨_, rfl, .map (raisesKnown_readLoc16 s _) fun _ => rfl⟩
  case movSregRm16 =>
    simp only [exec, execMovSregRm16]
    split
    · exact ⟨.error _, rfl, .error nofun⟩
    · exact ⟨_, rfl, .map (raisesKnown_readLoc16 s _) fun _ => rfl⟩
  case movAlMoffs8 => exact ⟨_, rfl, .map (raisesKnown_read8 s _) fun _ => rfl⟩
  case movAxMoffs16 => exact ⟨_, rfl, .map (raisesKnown_read16 s _) fun _ => rfl⟩
  case movR8Imm8 | movR16Imm16 => exact ⟨.ok _, rfl, .ok rfl⟩
  case movRm8Imm8 => exact ⟨_, rfl, (runsOrRaises_writeImm8 s _ _ _).skip _⟩
  case movRm16Imm16 => exact ⟨_, rfl, (runsOrRaises_writeImm16 s _ _ _).skip _⟩
  case subR8Rm8 | cmpR8Rm8 | cmpRm8Imm8 =>
    exact ⟨_, rfl, .bind (raisesKnown_readLoc8 s _) fun _ => .ok rfl⟩
  case subR16Rm16 | cmpR16Rm16 | cmpRm16Imm8 =>
    exact ⟨_, rfl, .bind (raisesKnown_readLoc16 s _) fun _ => .ok rfl⟩
  case subRm16Imm8 =>
    refine ⟨_, rfl, .bind (raisesKnown_readLoc16 s _) fun _ => ?_⟩
    rw [State.subFlags_ok]
    exact ((runsOrRaises_writeLoc16 _ _ _).skip _).of_runState (s.setFlags_runState _)
  case andRm8Imm8 | shrRm8 => exact ⟨_, rfl, runsOrRaises_modify8 s _ _ _⟩
  case andRm16Imm16 | andRm16Imm8 | shrRm16 => exact ⟨_, rfl, runsOrRaises_modify16 s _ _ _⟩
  case pushR16 => exact ⟨_, rfl, runsOrRaises_push16 s _⟩
  case popR16 =>
    refine ⟨_, rfl, ?_⟩
    rcases s.pop16_cases with ⟨-, e⟩ | ⟨-, e⟩ <;> rw [e]
    · exact .ok rfl
    · exact .error nofun
  case jz | jnz | jl | jmp => exact ⟨_, rfl, runsOrRaises_jumpShort s _ _⟩
  case call => exact ⟨_, rfl, .ite (.error nofun) (.map (raisesKnown_target _ _) fun _ => rfl)⟩
  case ret =>
    simp only [exec, execRet]
    split
    · exact ⟨.error _, rfl, .error nofun⟩
    · exact ⟨.ok _, rfl, .ok rfl⟩
  case scasb | repneScasb => exact ⟨_, rfl, runsOrRaises_scanString s _⟩

theorem Cond.reason_ne_exit (start : Nat) (c : Cond) (code : Byte) :
    c.reason start ≠ .exit code := by
  cases c <;> exact nofun

theorem Cond.eq_unknownOpcode_of_reason {start : Nat} {c : Cond} {op : Byte}
    (h : c.reason start = .unknownOpcode op) : ∃ modrm, c = .unknownOpcode op modrm := by
  cases c <;> cases h
  exact ⟨_, rfl⟩

/-- What the instructions say of the two ends 60_exceptions.md R343 names. -/
theorem exec_sourceDefinedEnd {i : Instr} {s t : State} (hrun : s.runState = .running)
    (h : exec i s = .next t) :
    (∀ code, t.runState = .halted (.exit code) →
      i = .int 0x21 ∧ s.r8 .ah = 0x4C ∧ code = s.r8 .al) ∧
    ∀ op, t.runState ≠ .halted (.unknownOpcode op) := by
  have hgoon : t.runState = s.runState → ∀ r, t.runState ≠ .halted r := fun he r hr => by
    rw [he, hrun] at hr; cases hr
  by_cases hi : ∃ n, i = .int n
  · obtain ⟨n, rfl⟩ := hi
    cases exec_int_cases h with
    | exit hn =>
      obtain ⟨rfl, hah⟩ := hn
      exact ⟨fun _ hc => ⟨rfl, hah, (HaltReason.exit.inj (RunState.halted.inj hc)).symm⟩, nofun⟩
    | writeStringFails => exact ⟨nofun, nofun⟩
    | _ => exact ⟨fun _ hc => absurd hc (hgoon rfl _), fun _ => hgoon rfl _⟩
  · obtain ⟨r, he, hr⟩ := exec_eq_settle (fun n hn => hi ⟨n, hn⟩) s
    rcases State.settle_cases (he ▸ h) with rfl | ⟨c, rfl, rfl⟩
    · have hgoon := hgoon (hr.runs t rfl)
      exact ⟨fun _ hc => absurd hc (hgoon _), fun _ => hgoon _⟩
    · refine ⟨fun code hc => ?_, fun op hc => ?_⟩
      · exact absurd (RunState.halted.inj hc) (c.reason_ne_exit _ code)
      · obtain ⟨modrm, rfl⟩ := Cond.eq_unknownOpcode_of_reason (RunState.halted.inj hc)
        exact hr.raises op modrm rfl

/-- Only bytes the decoder rejects as UNKNOWN_OPCODE are reported so. -/
theorem reason_rejectedCond {start index : Nat} {e : DecodeError} {op : Byte}
    (h : (rejectedCond index e).reason start = .unknownOpcode op) :
    ∃ modrm, e = .unknownOpcode op modrm := by
  cases e <;> cases h
  exact ⟨_, rfl⟩

/-- Settles O18: polls and the opcode fetch end no run so, the decoder only with UNKNOWN_OPCODE, and
an instruction only by the exit service. -/
theorem runsEndForTheStatedReasons : Obligations.RunsEndForTheStatedReasons := by
  intro s t hrun h
  cases (step_cases h).2 with
  | polls => rw [s.pollKey_runState, hrun]; exact ⟨nofun, nofun⟩
  | fetchFails => exact ⟨nofun, nofun⟩
  | rejects _ _ hd =>
    refine ⟨fun code hc => ?_, fun op hc => ?_⟩
    · exact absurd (RunState.halted.inj hc) (Cond.reason_ne_exit _ _ code)
    · obtain ⟨modrm, rfl⟩ := reason_rejectedCond (RunState.halted.inj hc)
      exact ⟨modrm, hd⟩
  | runs _ _ hd hx =>
    obtain ⟨hexit, hunknown⟩ := exec_sourceDefinedEnd (s := s.fetched) hrun hx
    refine ⟨fun code hc => ?_, fun op hc => absurd hc (hunknown op)⟩
    obtain ⟨rfl, hah, hcode⟩ := hexit code hc
    exact ⟨⟨_, hd⟩, hah, hcode⟩

end Sys2Proof.Machine

/-! ### Steps by what is at pc -/

namespace Sys2Proof

theorem MemOp.dlen_le_two (m : MemOp) : m.dlen ≤ 2 := by cases m <;> simp [MemOp.dlen]

theorem RM.dlen_le_two {ρ : Type} (rm : RM ρ) : rm.dlen ≤ 2 := by
  cases rm with
  | reg r => exact Nat.zero_le 2
  | mem m => exact m.dlen_le_two

theorem Instr.length_le_maxLength (i : Instr) : i.length ≤ maxLength := by
  cases i <;> simp only [Instr.length, maxLength]
  case movRm8R8 rm _ | movRm16R16 rm _ | movR8Rm8 _ rm | movR16Rm16 _ rm | movSregRm16 _ rm |
      movRm8Imm8 rm _ | movRm16Imm16 rm _ | subR8Rm8 _ rm | subR16Rm16 _ rm | cmpR8Rm8 _ rm |
      cmpR16Rm16 _ rm | subRm16Imm8 rm _ | cmpRm16Imm8 rm _ | cmpRm8Imm8 rm _ | andRm8Imm8 rm _ |
      andRm16Imm16 rm _ | andRm16Imm8 rm _ | shrRm8 rm | shrRm16 rm =>
    have := rm.dlen_le_two
    omega
  all_goals decide

theorem encode_length (i : Instr) : (encode i).length = i.length := by
  cases i
  case movRm8R8 | movRm16R16 | movR8Rm8 | movR16Rm16 | movSregRm16 | subR8Rm8 | subR16Rm16 |
      cmpR8Rm8 | cmpR16Rm16 | shrRm8 | shrRm16 =>
    exact Laws.EncodeLength.modrm_length _ _ _ _
  case movRm8Imm8 | movRm16Imm16 | subRm16Imm8 | cmpRm16Imm8 | cmpRm8Imm8 | andRm8Imm8 |
      andRm16Imm16 | andRm16Imm8 =>
    exact Laws.EncodeLength.modrmImm_length _ _ _ _ _
  all_goals rfl

/-- A reader that answers takes at most `n` bytes, and from `n` bytes on it does answer. -/
def TakesAtMost {α : Type} (n : Nat) (f : List Byte → Decoded α) : Prop :=
  ∀ bs, n ≤ bs.length → f bs ≠ .bad .truncated ∧ ∀ v r, f bs = .ok v r → bs.length ≤ n + r.length

theorem TakesAtMost.mono {α : Type} {n m : Nat} {f : List Byte → Decoded α} (hf : TakesAtMost n f)
    (h : n ≤ m) : TakesAtMost m f := fun bs hbs =>
  ⟨(hf bs (h.trans hbs)).1, fun v r hv => by have := (hf bs (h.trans hbs)).2 v r hv; omega⟩

theorem TakesAtMost.ok {α : Type} (v : α) : TakesAtMost 0 (Decoded.ok v) := fun bs _ =>
  ⟨nofun, fun _ _ h => by rw [(Decoded.ok.inj h).2]; omega⟩

theorem TakesAtMost.bad {α : Type} {e : DecodeError} (he : e ≠ .truncated) :
    TakesAtMost 0 (fun _ => (.bad e : Decoded α)) := fun _ _ =>
  ⟨fun h => he (Decoded.bad.inj h), nofun⟩

theorem TakesAtMost.take8 : TakesAtMost 1 take8 := fun bs hbs => by
  cases bs with
  | nil => cases hbs
  | cons b bs =>
    refine ⟨nofun, fun v r h => ?_⟩
    rw [List.cons.inj (take8_eq_ok h) |>.2, List.length_cons]; omega

theorem TakesAtMost.take16 : TakesAtMost 2 take16 := fun bs hbs => by
  match bs with
  | [] | [_] => simp at hbs
  | _ :: _ :: _ =>
    refine ⟨nofun, fun v r h => ?_⟩
    rw [take16_eq_ok h, List.length_append, encode16_length]

theorem TakesAtMost.bind {α β : Type} {n m : Nat} {f : List Byte → Decoded α}
    {g : α → List Byte → Decoded β} (hf : TakesAtMost n f) (hg : ∀ v, TakesAtMost m (g v)) :
    TakesAtMost (n + m) fun bs => (f bs).bind g := fun bs hbs => by
  obtain ⟨hne, hlen⟩ := hf bs (by omega)
  show (f bs).bind g ≠ _ ∧ ∀ v r, (f bs).bind g = .ok v r → _
  cases hv : f bs with
  | bad e => exact ⟨fun h => hne (hv.trans (congrArg _ (Decoded.bad.inj h))), nofun⟩
  | ok v r =>
    have hlen := hlen v r hv
    obtain ⟨hne', hlen'⟩ := hg v r (by omega)
    exact ⟨hne', fun w r' hw => by have := hlen' w r' hw; omega⟩

theorem TakesAtMost.map {α β : Type} {n : Nat} {f : List Byte → Decoded α} (hf : TakesAtMost n f)
    (g : α → β) : TakesAtMost n fun bs => (f bs).bind fun v r => .ok (g v) r :=
  hf.bind fun _ => .ok _

theorem TakesAtMost.ite {α : Type} {n : Nat} {c : Prop} [Decidable c]
    {f g : List Byte → Decoded α} (hf : TakesAtMost n f) (hg : TakesAtMost n g) :
    TakesAtMost n fun bs => if c then f bs else g bs := by
  intro bs hbs
  by_cases hc : c <;> simp only [hc, if_true, if_false]
  · exact hf bs hbs
  · exact hg bs hbs

theorem TakesAtMost.takeMem (md : BitVec 2) (rm : BitVec 3) : TakesAtMost 2 (takeMem md rm) :=
  .ite (.ite (.map .take16 _) ((TakesAtMost.ok _).mono (by omega)))
    (.ite ((TakesAtMost.map .take8 _).mono (by omega)) (.map .take16 _))

theorem TakesAtMost.takeRM {ρ : Type} (name : BitVec 3 → ρ) (modrm : Byte) :
    TakesAtMost 2 (takeRM name modrm) :=
  .ite ((TakesAtMost.ok _).mono (by omega)) (.map (.takeMem _ _) _)

theorem TakesAtMost.formReg {ρ : Type} (name : BitVec 3 → ρ) (mk : BitVec 3 → RM ρ → Instr) :
    TakesAtMost 3 (formReg name mk) := .bind .take8 fun _ => .map (.takeRM _ _) _

theorem TakesAtMost.formRMImm8 {ρ : Type} (name : BitVec 3 → ρ) (mk : RM ρ → Byte → Instr) :
    TakesAtMost 4 (formRMImm8 name mk) :=
  .bind .take8 fun _ => .bind (.takeRM _ _) fun _ => .map .take8 _

theorem TakesAtMost.formRMImm16 {ρ : Type} (name : BitVec 3 → ρ) (mk : RM ρ → Word → Instr) :
    TakesAtMost 5 (formRMImm16 name mk) :=
  .bind .take8 fun _ => .bind (.takeRM _ _) fun _ => .map .take16 _

theorem TakesAtMost.formImm8 (mk : Byte → Instr) : TakesAtMost 1 (formImm8 mk) := .map .take8 _

theorem TakesAtMost.formImm16 (mk : Word → Instr) : TakesAtMost 2 (formImm16 mk) := .map .take16 _

/-- A reader that looks at the first byte before it chooses how to go on. -/
theorem TakesAtMost.peek {α : Type} {n : Nat} {f : List Byte → Decoded α}
    (g : Byte → List Byte → Decoded α) (hc : ∀ b r, f (b :: r) = g b (b :: r))
    (hg : ∀ b, TakesAtMost (n + 1) (g b)) : TakesAtMost (n + 1) f := fun bs hbs => by
  cases bs with
  | nil => cases hbs
  | cons b r => rw [hc]; exact hg b (b :: r) hbs

theorem TakesAtMost.memOnly (op : Byte) {n : Nat} {f : List Byte → Decoded Instr}
    (hf : TakesAtMost (n + 1) f) : TakesAtMost (n + 1) (memOnly op f) :=
  .peek (fun modrm bs => if modField modrm = 3 then .bad (.unsupportedOperand op modrm) else f bs)
    (fun _ _ => rfl) fun _ => .ite (.mono (.bad (by nofun)) (Nat.zero_le _)) hf

theorem TakesAtMost.decodeGroup (op : Byte) {n : Nat}
    {member : BitVec 3 → Option (List Byte → Decoded Instr)}
    (h : ∀ k f, member k = some f → TakesAtMost (n + 1) f) :
    TakesAtMost (n + 1) (decodeGroup op member) :=
  .peek (fun modrm bs => match member (regField modrm) with
      | some form => form bs
      | none => .bad (.unknownOpcode op (some modrm))) (fun _ _ => rfl) fun b => by
    cases hm : member (regField b) with
    | some f => exact h _ _ hm
    | none => exact .mono (.bad (by nofun)) (Nat.zero_le _)

theorem TakesAtMost.formSreg : TakesAtMost 3 formSreg :=
  .peek (fun modrm bs => if sregFieldOk (regField modrm) then
      Sys2Proof.formReg Reg16.ofCode .movSregRm16 bs else .bad (.unsupportedOperand 0x8E modrm))
    (fun _ _ => rfl) fun _ => .ite (.formReg _ _) (.mono (.bad (by nofun)) (Nat.zero_le _))

theorem TakesAtMost.formF2 : TakesAtMost 1 formF2 := fun bs hbs => by
  cases bs with
  | nil => cases hbs
  | cons b r =>
    simp only [Sys2Proof.formF2]
    split
    · exact ⟨by simp, fun _ _ h => by rw [(Decoded.ok.inj h).2, List.length_cons]; omega⟩
    · exact ⟨by simp, by simp⟩

theorem Handler.decode_takesAtMost (h : Handler) (op : Byte) : TakesAtMost 5 (h.decode op) := by
  cases h <;> simp only [Handler.decode]
  case movRm8R8 | movRm16R16 | movR8Rm8 | movR16Rm16 | subR8 | subR16 | cmpR8 | cmpR16 =>
    exact (TakesAtMost.formReg _ _).mono (by omega)
  case movSreg => exact TakesAtMost.formSreg.mono (by omega)
  case movAlMoffs | movAxMoffs | movR16Imm | call =>
    exact (TakesAtMost.formImm16 _).mono (by omega)
  case movR8Imm | jz | jnz | jl | jmp | int => exact (TakesAtMost.formImm8 _).mono (by omega)
  case pushR | popR | ret | scasb => exact (TakesAtMost.ok _).mono (by omega)
  case prefixF2 => exact TakesAtMost.formF2.mono (by omega)
  case group80 | group83 =>
    refine .decodeGroup op fun n f hf => ?_
    simp only [member80, member83] at hf
    split_ifs at hf <;> cases hf <;> exact (TakesAtMost.formRMImm8 _ _).mono (by omega)
  case group81 =>
    refine .decodeGroup op fun n f hf => ?_
    simp only [member81] at hf
    split_ifs at hf; cases hf
    exact .formRMImm16 _ _
  case groupC6 =>
    refine .decodeGroup op fun n f hf => ?_
    simp only [memberC6] at hf
    split_ifs at hf; cases hf
    exact (TakesAtMost.memOnly _ (.formRMImm8 _ _)).mono (by omega)
  case groupC7 =>
    refine .decodeGroup op fun n f hf => ?_
    simp only [memberC7] at hf
    split_ifs at hf; cases hf
    exact .memOnly _ (.formRMImm16 _ _)
  case groupD0 | groupD1 =>
    refine .decodeGroup op fun n f hf => ?_
    simp only [memberD0, memberD1] at hf
    split_ifs at hf; cases hf
    exact (TakesAtMost.formReg _ _).mono (by omega)

/-- A first byte and no more than five after it. -/
theorem decode_ne_truncated {bs : List Byte} (h : maxLength ≤ bs.length) :
    decode bs ≠ .bad .truncated := by
  cases bs with
  | nil => cases h
  | cons op tl =>
    simp only [decode]
    split
    · exact nofun
    · exact (Handler.decode_takesAtMost _ op tl (Nat.le_of_succ_le_succ h)).1

end Sys2Proof

namespace Sys2Proof.Machine

open Sys2Proof.Config

/-- Settles O6: bytes that decode are there, so the opcode fetch succeeds. -/
theorem stepRunsTheDecodedInstruction : Obligations.StepRunsTheDecodedInstruction := by
  intro s i rest hrun hb hd
  have hpc : s.pc < s.cfg.memSize := by
    by_contra hpc
    rw [State.window_outside (Nat.not_lt.mp hpc)] at hd
    cases hd
  rw [step_of_running hrun hb, runInstruction_inside hpc, runFetched_of_ok hd, State.fetched_eq]

theorem Mem.bytesFrom_eq {m : Mem} {a : Nat} {bs : List Byte}
    (h : ∀ (k : Nat) (b : Byte), bs[k]? = some b → m.read (a + k) = b) :
    m.bytesFrom a bs.length = bs := by
  induction bs generalizing a with
  | nil => rfl
  | cons b bs ih =>
    have htail : m.bytesFrom (a + 1) bs.length = bs := ih fun k b hk => by
      rw [Nat.add_assoc, Nat.add_comm 1]; exact h (k + 1) b hk
    have hhead : m.read a = b := h 0 b rfl
    rw [List.length_cons, Mem.bytesFrom, hhead, htail]

/-- Settles O7: the image bytes at pc are the encoding with other bytes after it, and that
decodes. -/
theorem storedInstructionRuns : Obligations.StoredInstructionRuns := by
  intro s i hrun hb hw hfit hbytes
  have hlen : (encode i).length = i.length := encode_length i
  have hmax := i.length_le_maxLength
  obtain ⟨k, hk⟩ : ∃ k, min maxLength (s.cfg.memSize - s.pc) = (encode i).length + k :=
    Nat.exists_eq_add_of_le (by omega)
  have hwin : s.window maxLength = encode i ++ s.mem.bytesFrom (s.pc + (encode i).length) k := by
    rw [State.window, hk, Mem.bytesFrom_add, Mem.bytesFrom_eq hbytes]
  have hd := decodeInvertsEncode i (s.mem.bytesFrom (s.pc + (encode i).length) k) hw
  rw [stepRunsTheDecodedInstruction s i _ hrun hb (hwin ▸ hd), State.fetched_eq]

/-- Bytes that end too early end at the end of the image: the window is shorter than the longest
instruction. -/
theorem State.window_length_of_truncated {s : State} (hpc : s.pc < s.cfg.memSize)
    (hd : decode (s.window maxLength) = .bad .truncated) :
    s.pc + (s.window maxLength).length = s.cfg.memSize := by
  have hlt : ¬ maxLength ≤ (s.window maxLength).length := fun h => decode_ne_truncated h hd
  rw [s.window_length] at hlt ⊢
  omega

/-- Settles O8: the opcode fetch fails, or the decoder rejects the bytes at pc. -/
theorem stepHaltsOnWhatDoesNotDecode : Obligations.StepHaltsOnWhatDoesNotDecode := by
  intro s hrun hb
  have hstep := step_of_running hrun hb
  refine ⟨fun hpc => ?_, fun hpc hd => ?_, fun op modrm hpc hd => ⟨fun hx => ?_, fun hx => ?_⟩,
    fun op modrm hpc hd => ?_⟩
  · rw [hstep, runInstruction_outside hpc]; rfl
  · rw [hstep, runInstruction_inside hpc, runFetched_of_bad hd nofun,
      State.window_length_of_truncated hpc hd]
    rfl
  · have hx : ∀ o m, DecodeError.unknownOpcode op modrm = .unknownOpcode o m →
        o ∉ s.fetched.cfg.extraOpcodes := fun o m ho => by cases ho; exact hx
    rw [hstep, runInstruction_inside hpc, runFetched_of_bad hd hx]
    rfl
  · rw [hstep, runInstruction_inside hpc, runFetched_of_extra (s := s.fetched) hd hx]
  · rw [hstep, runInstruction_inside hpc, runFetched_of_bad hd nofun]
    rfl

/-- Settles O10: the step is one poll, which answers or leaves the core waiting. -/
theorem blockedCoreOnlyWaits : Obligations.BlockedCoreOnlyWaits := by
  intro s hrun hb
  refine ⟨s.pollKey, step_of_blocked hrun hb, ?_⟩
  rcases s.pollKey_cases with ⟨b, hkey, e⟩ | ⟨hkey, e⟩
  · rw [e, State.dropKey_eq]
    refine ⟨rfl, rfl, rfl, hrun, rfl, rfl, rfl, rfl, rfl, rfl, rfl, rfl,
      fun h hne => State.r8_setR8_ne s b hne, fun r hne => State.r16_setR8_ne s b hne,
      fun b' hb' => ?_, fun hnone => ?_⟩
    · obtain rfl : b = b' := Option.some.inj (hkey.symm.trans hb')
      exact ⟨rfl, State.r8_setR8_same s .al b, rfl⟩
    · rw [hkey] at hnone; cases hnone
  · rw [e, State.dropKey_eq]
    refine ⟨rfl, rfl, rfl, hrun, rfl, rfl, rfl, rfl, rfl, rfl, rfl, rfl,
      fun _ _ => rfl, fun _ _ => rfl, fun b hb => ?_, fun _ => ⟨rfl, rfl, rfl⟩⟩
    rw [hkey] at hb; cases hb

end Sys2Proof.Machine

/-! ### Locations and words of the image (20_memory.md section 2, 40_operand_resolver.md R142) -/

namespace Sys2Proof.Machine

theorem State.read8_of_inImage {s : State} {a : Nat} (h : s.inImage a 1) :
    s.read8 a = .ok (s.mem.read a) := if_pos h

theorem State.read8_of_outside {s : State} {a : Nat} (h : s.cfg.memSize < a + 1) :
    s.read8 a = .error (.memOutOfRange a 1) := if_neg (Nat.not_le.mpr h)

theorem State.read16_of_inImage {s : State} {a : Nat} (h : s.inImage a 2) :
    s.read16 a = .ok (joinBytes (s.mem.read (a + 1)) (s.mem.read a)) := if_pos h

theorem State.read16_of_outside {s : State} {a : Nat} (h : s.cfg.memSize < a + 2) :
    s.read16 a = .error (.memOutOfRange a 2) := if_neg (Nat.not_le.mpr h)

theorem State.write8_of_inImage {s : State} {a : Nat} (v : Byte) (h : s.inImage a 1) :
    s.write8 a v = .ok (s.setMem (s.mem.write a v)) := if_pos h

theorem State.write8_of_outside {s : State} {a : Nat} (v : Byte) (h : s.cfg.memSize < a + 1) :
    s.write8 a v = .error (.memOutOfRange a 1) := if_neg (Nat.not_le.mpr h)

theorem State.write16_of_inImage {s : State} {a : Nat} (v : Word) (h : s.inImage a 2) :
    s.write16 a v = .ok (s.setMem (s.mem.write16 a v)) := if_pos h

theorem State.write16_of_outside {s : State} {a : Nat} (v : Word) (h : s.cfg.memSize < a + 2) :
    s.write16 a v = .error (.memOutOfRange a 2) := if_neg (Nat.not_le.mpr h)

theorem State.read8_after_write {s : State} {a : Nat} (v : Byte) (hm : s.mem.wf)
    (h : s.inImage a 1) : (s.setMem (s.mem.write a v)).read8 a = .ok v := by
  rw [State.read8_of_inImage (s := s.setMem (s.mem.write a v)) h, State.setMem_mem,
    Mem.read_write_same a v hm]

theorem State.read16_after_write16 {s : State} {a : Nat} (v : Word) (hm : s.mem.wf)
    (h : s.inImage a 2) : (s.setMem (s.mem.write16 a v)).read16 a = .ok v := by
  rw [State.read16_of_inImage (s := s.setMem (s.mem.write16 a v)) h, State.setMem_mem,
    Mem.read_write16_low a v hm, Mem.read_write16_high a v hm, joinBytes_high_low]

theorem State.readLoc8_of_writeLoc8 {s t : State} {l : Loc Reg8} {v : Byte} (hm : s.mem.wf)
    (h : s.writeLoc8 l v = .ok t) : t.readLoc8 l = .ok v := by
  rcases State.writeLoc8_ok h with ⟨r, rfl, rfl⟩ | ⟨a, rfl, hi, rfl⟩
  · exact congrArg _ (s.r8_setR8_same r v)
  · exact State.read8_after_write v hm hi

theorem State.readLoc16_of_writeLoc16 {s t : State} {l : Loc Reg16} {v : Word} (hm : s.mem.wf)
    (h : s.writeLoc16 l v = .ok t) : t.readLoc16 l = .ok v := by
  rcases State.writeLoc16_ok h with ⟨r, rfl, rfl⟩ | ⟨a, rfl, hi, rfl⟩
  · exact congrArg _ (s.r16_setR16_same r v)
  · exact State.read16_after_write16 v hm hi

/-- Settles O24: a register reads back what was put there, and so do the bytes of the image. -/
theorem locationsReadBackWhatWasWritten : Obligations.LocationsReadBackWhatWasWritten :=
  ⟨fun _ _ _ _ => State.readLoc8_of_writeLoc8, fun _ _ _ _ => State.readLoc16_of_writeLoc16⟩

/-- Settles O25: the low byte is stored at the lower index, and both bytes or none. -/
theorem wordsAreLittleEndian : Obligations.WordsAreLittleEndian := by
  intro s a v hm
  refine ⟨fun h => ⟨_, State.write16_of_inImage v h, Mem.write16_wf a v hm,
    State.read16_after_write16 v hm h, ?_, ?_, fun k h0 h1 => Mem.read_write16_ne s.mem v h0 h1⟩,
    fun h => ⟨State.write16_of_outside v h, State.read16_of_outside h⟩⟩
  · rw [State.setMem_mem, Mem.read_write16_low a v hm, lowByte_toNat]
  · rw [State.setMem_mem, Mem.read_write16_high a v hm, highByte_toNat]

/-! ### Addresses in plain numbers (40_operand_resolver.md R132 to R134) -/

theorem sext16_eq_ofInt (b : Byte) : sext16 b = BitVec.ofInt 16 b.toInt := rfl

theorem sext16_toNat (b : Byte) : (sext16 b).toNat = (b.toInt % 65536).toNat := by
  rw [sext16_eq_ofInt, BitVec.toNat_ofInt]
  rfl

theorem State.base_toNat (s : State) (b : Base) : (s.base b).toNat = s.baseSum b % 65536 := by
  cases b <;> simp only [State.base, State.baseSum]
  case bxsi | bxdi | bpsi | bpdi => exact BitVec.toNat_add _ _
  all_goals exact (Nat.mod_eq_of_lt (BitVec.isLt _)).symm

theorem State.lin_eq (s : State) (g : SReg) (off : Nat) :
    s.lin g off = s.cfg.loadOffset + 16 * (s.seg g).toNat + off := rfl

/-- Settles O23: every form is L + 16*DS and an offset that is a sum of 16-bit words. -/
theorem operandAddresses : Obligations.OperandAddresses := by
  intro s b d8 d16
  refine ⟨rfl, ?_, ?_, ?_⟩ <;>
    simp only [State.addr, State.ea, State.lin_eq, BitVec.toNat_add, State.base_toNat]
  · rw [sext16_toNat]
    omega
  · omega

/-! ### The resolver on instruction bytes (40_operand_resolver.md R130 to R139) -/

/-- The two bytes at pc, as far as the image goes. -/
theorem State.window_two_cases (s : State) :
    (s.cfg.memSize ≤ s.pc ∧ s.window 2 = []) ∨
    (s.pc + 1 = s.cfg.memSize ∧ s.window 2 = [s.mem.read s.pc]) ∨
    (s.pc + 2 ≤ s.cfg.memSize ∧ s.window 2 = [s.mem.read s.pc, s.mem.read (s.pc + 1)]) := by
  rcases Nat.lt_or_ge s.pc s.cfg.memSize with h | h
  · rcases Nat.eq_or_lt_of_le h with h1 | h1
    · have hmin : min 2 (s.cfg.memSize - s.pc) = 1 := by omega
      exact .inr (.inl ⟨h1, by rw [State.window, hmin]; rfl⟩)
    · have hmin : min 2 (s.cfg.memSize - s.pc) = 2 := by omega
      exact .inr (.inr ⟨h1, by rw [State.window, hmin]; rfl⟩)
  · exact .inl ⟨h, State.window_outside h⟩

theorem State.fetch8_of_inside {s : State} (h : s.pc < s.cfg.memSize) :
    s.fetch8 = .ok (s.mem.read s.pc, s.skip 1) := if_pos h

theorem State.fetch8_of_outside {s : State} (h : s.cfg.memSize ≤ s.pc) :
    s.fetch8 = .error (.fetchOutOfRange s.pc) := if_neg (Nat.not_lt.mpr h)

/-- Reading at pc and taking the bytes there agree: `f` gives the value `val` makes of what is taken
and consumes the bytes `len` counts, and it fails at the image end when the bytes run out. -/
structure ReadsAlike {α β : Type} (s : State) (val : α → β) (len : α → Nat)
    (f : Except Cond (β × State)) (d : Decoded α) : Prop where
  ok : ∀ v rest, d = .ok v rest → f = .ok (val v, s.skip (len v))
  bad : ∀ e, d = .bad e → f = .error (.fetchOutOfRange (max s.pc s.cfg.memSize))

section
variable {α β : Type} {s : State} {val : α → β} {len : α → Nat}

theorem ReadsAlike.of_ok {v : α} {w : β} {u : State} {rest : List Byte} (hv : val v = w)
    (hu : s.skip (len v) = u) : ReadsAlike s val len (.ok (w, u)) (.ok v rest) where
  ok _ _ h := by rw [← (Decoded.ok.inj h).1, hv, hu]
  bad _ h := by cases h

theorem ReadsAlike.of_bad {e : DecodeError} {k : Nat} (hk : max s.pc s.cfg.memSize = k) :
    ReadsAlike s val len (.error (.fetchOutOfRange k)) (.bad e) where
  ok _ _ h := by cases h
  bad _ _ := by rw [hk]

theorem ReadsAlike.map {α' β' : Type} {val' : α' → β'} {len' : α' → Nat}
    {f : Except Cond (β × State)} {d : Decoded α} (h : ReadsAlike s val len f d) (g : β → β')
    (mk : α → α') (hval : ∀ v, val' (mk v) = g (val v)) (hlen : ∀ v, len' (mk v) = len v) :
    ReadsAlike s val' len' (f.map fun p => (g p.1, p.2)) (d.bind fun v r => .ok (mk v) r) := by
  cases hd : d with
  | ok v rest => rw [h.ok v rest hd]; exact .of_ok (hval v) (by rw [hlen])
  | bad e => rw [h.bad e hd]; exact .of_bad rfl

theorem ReadsAlike.ite {c : Prop} [Decidable c] {f f' : Except Cond (β × State)}
    {d d' : Decoded α} (h : ReadsAlike s val len f d) (h' : ReadsAlike s val len f' d') :
    ReadsAlike s val len (if c then f else f') (if c then d else d') := by
  by_cases hc : c
  · rwa [if_pos hc, if_pos hc]
  · rwa [if_neg hc, if_neg hc]

end

theorem State.fetch8_readsAlike (s : State) :
    ReadsAlike s id (fun _ => 1) s.fetch8 (take8 (s.window 2)) := by
  rcases s.window_two_cases with ⟨h, hw⟩ | ⟨h, hw⟩ | ⟨h, hw⟩ <;> rw [hw]
  · rw [State.fetch8_of_outside h]
    exact .of_bad (Nat.max_eq_left h)
  · rw [State.fetch8_of_inside (by omega)]
    exact .of_ok rfl rfl
  · rw [State.fetch8_of_inside (by omega)]
    exact .of_ok rfl rfl

theorem State.fetch16_readsAlike (s : State) :
    ReadsAlike s id (fun _ => 2) s.fetch16 (take16 (s.window 2)) := by
  unfold State.fetch16
  rcases s.window_two_cases with ⟨h, hw⟩ | ⟨h, hw⟩ | ⟨h, hw⟩ <;> rw [hw]
  · rw [State.fetch8_of_outside h]
    exact .of_bad (Nat.max_eq_left h)
  · rw [State.fetch8_of_inside (by omega), except_bind_ok]
    dsimp only
    rw [State.fetch8_of_outside (s := s.skip 1) (Nat.le_of_eq h.symm)]
    exact .of_bad ((Nat.max_eq_right (by omega)).trans h.symm)
  · rw [State.fetch8_of_inside (by omega), except_bind_ok]
    dsimp only
    rw [State.fetch8_of_inside (s := s.skip 1) h]
    exact .of_ok rfl rfl

theorem State.resolveMem_readsAlike (s : State) (md : BitVec 2) (rm : BitVec 3) :
    ReadsAlike s s.addr MemOp.dlen (s.resolveMem md rm) (takeMem md rm (s.window 2)) :=
  .ite
    (.ite (s.fetch16_readsAlike.map (fun d => s.addr (.direct d)) _ (fun _ => rfl) fun _ => rfl)
      (.of_ok rfl rfl))
    (.ite (s.fetch8_readsAlike.map (fun d => s.addr (.indirect8 (Base.ofCode rm) d)) _
        (fun _ => rfl) fun _ => rfl)
      (s.fetch16_readsAlike.map (fun d => s.addr (.indirect16 (Base.ofCode rm) d)) _
        (fun _ => rfl) fun _ => rfl))

theorem State.resolveRM_readsAlike {ρ : Type} (s : State) (name : BitVec 3 → ρ) (modrm : Byte) :
    ReadsAlike s s.loc RM.dlen (s.resolveRM name modrm true) (takeRM name modrm (s.window 2)) :=
  .ite (.of_ok rfl rfl)
    ((s.resolveMem_readsAlike _ _).map Loc.mem RM.mem (fun _ => rfl) fun _ => rfl)

/-- Settles O21: the resolver and the decoder branch alike on the ModRM byte, and a fetch and a take
agree. -/
theorem resolverAgreesWithTheDecoder : Obligations.ResolverAgreesWithTheDecoder :=
  fun _ name s modrm =>
    ⟨(s.resolveRM_readsAlike name modrm).ok, (s.resolveRM_readsAlike name modrm).bad⟩

/-! ### Resolution without commit (40_operand_resolver.md R139) -/

/-- The state with the result is `s` but for pc. -/
def MovesPcOnly {β : Type} (s : State) (f : Except Cond (β × State)) : Prop :=
  ∀ v u, f = .ok (v, u) → u.setPc s.pc = s

theorem MovesPcOnly.ok {β : Type} {s u : State} {v : β} (h : u.setPc s.pc = s) :
    MovesPcOnly s (.ok (v, u)) := fun _ _ he => (Prod.mk.inj (Except.ok.inj he)).2 ▸ h

theorem MovesPcOnly.map {β γ : Type} {s : State} {f : Except Cond (β × State)}
    (h : MovesPcOnly s f) (g : β → γ) : MovesPcOnly s (f.map fun p => (g p.1, p.2)) :=
  fun _ _ he => by
  obtain ⟨⟨v, u⟩, hf, he⟩ := except_map_cases he
  exact (Prod.mk.inj he).2 ▸ h v u hf

theorem MovesPcOnly.ite {β : Type} {s : State} {c : Prop} [Decidable c]
    {f f' : Except Cond (β × State)} (h : MovesPcOnly s f) (h' : MovesPcOnly s f') :
    MovesPcOnly s (if c then f else f') := by
  split
  · exact h
  · exact h'

theorem State.fetch8_movesPcOnly (s : State) : MovesPcOnly s s.fetch8 := by
  rcases s.fetch8_cases with ⟨-, e⟩ | ⟨-, e⟩ <;> rw [e]
  · exact .ok rfl
  · exact fun _ _ he => by cases he

theorem State.fetch16_movesPcOnly (s : State) : MovesPcOnly s s.fetch16 := fun v u he => by
  obtain ⟨⟨lo, s1⟩, h1, he⟩ := except_bind_cases he
  obtain ⟨⟨hi, s2⟩, h2, he⟩ := except_map_cases he
  cases he
  calc u.setPc s.pc = (u.setPc s1.pc).setPc s.pc := rfl
    _ = s1.setPc s.pc := by rw [s1.fetch8_movesPcOnly hi u h2]
    _ = s := s.fetch8_movesPcOnly lo s1 h1

theorem State.resolveMem_movesPcOnly (s : State) (md : BitVec 2) (rm : BitVec 3) :
    MovesPcOnly s (s.resolveMem md rm) :=
  .ite (.ite (s.fetch16_movesPcOnly.map fun d => s.addr (.direct d)) (.ok rfl))
    (.ite (s.fetch8_movesPcOnly.map fun d => s.addr (.indirect8 (Base.ofCode rm) d))
      (s.fetch16_movesPcOnly.map fun d => s.addr (.indirect16 (Base.ofCode rm) d)))

theorem State.resolveRM_uncommitted_ok {ρ : Type} {s u : State} {name : BitVec 3 → ρ}
    {modrm : Byte} {l : Loc ρ} (h : s.resolveRM name modrm true = .ok (l, u)) :
    s.resolveRM name modrm false = .ok (l, s) := by
  unfold State.resolveRM at h ⊢
  by_cases h3 : modField modrm = 3
  · rw [if_pos h3] at h ⊢
    cases h; rfl
  · rw [if_neg h3] at h ⊢
    obtain ⟨⟨a, s1⟩, h1, h⟩ := except_map_cases h
    cases h
    rw [h1]
    exact congrArg (fun u => Except.ok (Loc.mem a, u)) (s.resolveMem_movesPcOnly _ _ a s1 h1)

theorem State.resolveRM_uncommitted_error {ρ : Type} {s : State} {name : BitVec 3 → ρ}
    {modrm : Byte} {c : Cond} (h : s.resolveRM name modrm true = .error c) :
    s.resolveRM name modrm false = .error c := by
  unfold State.resolveRM at h ⊢
  by_cases h3 : modField modrm = 3
  · rw [if_pos h3] at h; cases h
  rw [if_neg h3] at h ⊢
  cases hm : s.resolveMem (modField modrm) (rmField modrm) with
  | ok p => rw [hm] at h; cases h
  | error c' => rw [hm] at h; cases h; rfl

theorem State.resolveStoreImm8_uncommitted {s t : State} {op modrm : Byte}
    (h : s.resolveStoreImm8 op modrm true = .ok t) :
    s.resolveStoreImm8 op modrm false = .ok (t.setPc s.pc) := by
  obtain ⟨⟨l, s1⟩, h1, h⟩ := except_bind_cases h
  simp only [State.resolveStoreImm8, h1, except_bind_ok]
  cases l with
  | reg r => cases h
  | mem a =>
    obtain ⟨⟨v, s2⟩, h2, h⟩ := except_bind_cases h
    obtain ⟨s3, h3, rfl⟩ := except_map_cases h
    simp only [h2, h3, except_bind_ok, except_map_ok]
    rfl

theorem State.resolveStoreImm16_uncommitted {s t : State} {op modrm : Byte}
    (h : s.resolveStoreImm16 op modrm true = .ok t) :
    s.resolveStoreImm16 op modrm false = .ok (t.setPc s.pc) := by
  obtain ⟨⟨l, s1⟩, h1, h⟩ := except_bind_cases h
  simp only [State.resolveStoreImm16, h1, except_bind_ok]
  cases l with
  | reg r => cases h
  | mem a =>
    obtain ⟨⟨v, s2⟩, h2, h⟩ := except_bind_cases h
    obtain ⟨s3, h3, rfl⟩ := except_map_cases h
    simp only [h2, h3, except_bind_ok, except_map_ok]
    rfl

/-- Settles O22: a resolution moves nothing but pc, and the flag decides only whether pc is put back
at the end. -/
theorem uncommittedResolutionRollsBack : Obligations.UncommittedResolutionRollsBack :=
  ⟨fun _ _ _ _ => ⟨fun _ _ => State.resolveRM_uncommitted_ok,
      fun _ => State.resolveRM_uncommitted_error⟩,
    fun _ _ _ _ => State.resolveStoreImm8_uncommitted,
    fun _ _ _ _ => State.resolveStoreImm16_uncommitted⟩

/-! ### A memory operand outside the image (20_memory.md R62, R63) -/

theorem settle_map_of_error {α : Type} {s : State} {r : Except Cond α} {c : Cond}
    (h : r = .error c) (f : α → State) :
    s.settle (r.map f) = .next (s.haltedWith (c.reason (s.pc - 1)) (c.event (s.pc - 1))) := by
  rw [h]; rfl

theorem settle_bind_of_error {α : Type} {s : State} {r : Except Cond α} {c : Cond}
    (h : r = .error c) (f : α → Except Cond State) :
    s.settle (r.bind f) = .next (s.haltedWith (c.reason (s.pc - 1)) (c.event (s.pc - 1))) := by
  rw [h]; rfl

theorem RM.eq_of_memWithWidth {ρ : Type} {rm : RM ρ} {m : MemOp} {k n : Nat}
    (h : rm.memWithWidth k = some (m, n)) : rm = .mem m ∧ k = n := by
  cases rm with
  | reg r => cases h
  | mem m' => cases h; exact ⟨rfl, rfl⟩

/-- Settles O27: the access to the operand is what an instruction does first, and it fails. -/
theorem operandOutsideTheImageHalts : Obligations.OperandOutsideTheImageHalts := by
  intro i s m n hop hout
  cases i <;> simp only [Instr.memOperand, reduceCtorEq] at hop
  case movAlMoffs8 => cases hop; exact settle_map_of_error (State.read8_of_outside hout) _
  case movAxMoffs16 => cases hop; exact settle_map_of_error (State.read16_of_outside hout) _
  case movSregRm16 f src =>
    split_ifs at hop with hf
    obtain ⟨rfl, rfl⟩ := RM.eq_of_memWithWidth hop
    obtain ⟨g, hg⟩ : ∃ g, SReg.ofField f = some g := Option.ne_none_iff_exists'.mp fun hn => by
      rw [(SReg.ofField_none_iff f).mp hn] at hf; cases hf
    simp only [exec, execMovSregRm16, hg]
    exact settle_map_of_error (State.read16_of_outside hout) _
  all_goals obtain ⟨rfl, rfl⟩ := RM.eq_of_memWithWidth hop
  case movRm8R8 | movRm8Imm8 => exact settle_map_of_error (State.write8_of_outside _ hout) _
  case movRm16R16 | movRm16Imm16 => exact settle_map_of_error (State.write16_of_outside _ hout) _
  case movR8Rm8 => exact settle_map_of_error (State.read8_of_outside hout) _
  case movR16Rm16 => exact settle_map_of_error (State.read16_of_outside hout) _
  case subR8Rm8 | cmpR8Rm8 | cmpRm8Imm8 | andRm8Imm8 | shrRm8 =>
    exact settle_bind_of_error (State.read8_of_outside hout) _
  case subR16Rm16 | cmpR16Rm16 | subRm16Imm8 | cmpRm16Imm8 | andRm16Imm16 | andRm16Imm8 | shrRm16 =>
    exact settle_bind_of_error (State.read16_of_outside hout) _

end Sys2Proof.Machine

/-! ### MOV (42_data_movement.md) -/

namespace Sys2Proof.Machine

theorem settle_map_of_ok {α : Type} {s : State} {r : Except Cond α} {a : α} (h : r = .ok a)
    (f : α → State) : s.settle (r.map f) = .next (f a) := by
  rw [h]; rfl

@[simp] theorem State.readLoc8_skip (s : State) (n : Nat) (l : Loc Reg8) :
    (s.skip n).readLoc8 l = s.readLoc8 l := by cases l <;> rfl

@[simp] theorem State.readLoc16_skip (s : State) (n : Nat) (l : Loc Reg16) :
    (s.skip n).readLoc16 l = s.readLoc16 l := by cases l <;> rfl

/-- A write of a byte operand in the image completes, and the operand holds the value. -/
theorem State.writeLoc8_of_fits {s : State} {dst : RM8} (v : Byte) (hm : s.mem.wf)
    (h : s.fits 1 dst) :
    ∃ t, s.writeLoc8 (s.loc dst) v = .ok t ∧ t.readLoc8 (s.loc dst) = .ok v ∧
      t.flags = s.flags ∧ t.pc = s.pc ∧ t.runState = s.runState := by
  cases dst with
  | reg r => exact ⟨_, rfl, congrArg _ (s.r8_setR8_same r v), rfl, rfl, rfl⟩
  | mem m => exact ⟨_, s.write8_of_inImage v h, s.read8_after_write v hm h, rfl, rfl, rfl⟩

/-- A write of a word operand in the image completes, and the operand holds the value. -/
theorem State.writeLoc16_of_fits {s : State} {dst : RM16} (v : Word) (hm : s.mem.wf)
    (h : s.fits 2 dst) :
    ∃ t, s.writeLoc16 (s.loc dst) v = .ok t ∧ t.readLoc16 (s.loc dst) = .ok v ∧
      t.flags = s.flags ∧ t.pc = s.pc ∧ t.runState = s.runState := by
  cases dst with
  | reg r => exact ⟨_, rfl, congrArg _ (s.r16_setR16_same r v), rfl, rfl, rfl⟩
  | mem m => exact ⟨_, s.write16_of_inImage v h, s.read16_after_write16 v hm h, rfl, rfl, rfl⟩

/-- Settles O28: the write completes, and the operand reads back what was written. -/
theorem movStoresTheRegister : Obligations.MovStoresTheRegister := by
  refine ⟨fun dst src s hm hfit => ?_, fun dst src s hm hfit => ?_⟩
  · obtain ⟨t, ht, hv, -, hpc, hrun⟩ := s.writeLoc8_of_fits (s.r8 src) hm hfit
    refine ⟨_, settle_map_of_ok ht _, by rw [State.readLoc8_skip, hv], ?_, hrun⟩
    rw [State.skip_pc, hpc, Nat.add_assoc]
  · obtain ⟨t, ht, hv, -, hpc, hrun⟩ := s.writeLoc16_of_fits (s.r16 src) hm hfit
    refine ⟨_, settle_map_of_ok ht _, by rw [State.readLoc16_skip, hv], ?_, hrun⟩
    rw [State.skip_pc, hpc, Nat.add_assoc]

/-- Settles O29: the value read goes to the register; AL is the low half of AX. -/
theorem movLoadsTheRegister : Obligations.MovLoadsTheRegister := by
  refine ⟨fun dst src v s h => ?_, fun dst src v s h => ?_, fun off s h => ?_, fun off s h => ?_⟩
  · exact ⟨_, settle_map_of_ok h _, s.r8_setR8_same dst v, (Nat.add_assoc _ _ _).symm, rfl⟩
  · exact ⟨_, settle_map_of_ok h _, s.r16_setR16_same dst v, (Nat.add_assoc _ _ _).symm, rfl⟩
  · exact ⟨_, settle_map_of_ok (s.read8_of_inImage h) _, s.r8_setR8_same .al _,
      s.r8_setR8_ne _ (by decide), rfl, rfl⟩
  · refine ⟨_, settle_map_of_ok (s.read16_of_inImage h) _, ?_, ?_, rfl, rfl⟩
    · exact (congrArg lowByte (s.r16_setR16_same .ax _)).trans (lowByte_joinBytes _ _)
    · exact (congrArg highByte (s.r16_setR16_same .ax _)).trans (highByte_joinBytes _ _)

/-- Settles O30: no operand is read, so nothing fails. -/
theorem movImmediateToRegister : Obligations.MovImmediateToRegister :=
  ⟨fun dst imm s => ⟨_, rfl, s.r8_setR8_same dst imm, rfl, rfl⟩,
    fun dst imm s => ⟨_, rfl, s.r16_setR16_same dst imm, rfl, rfl⟩⟩

/-- Settles O31: a memory operand takes the immediate, a register operand has no case. -/
theorem movImmediateToMemoryOnly : Obligations.MovImmediateToMemoryOnly := by
  refine ⟨fun m imm s hm h => ?_, fun m imm s hm h => ?_, fun r imm s => rfl, fun r imm s => rfl⟩
  · exact ⟨_, settle_map_of_ok (s.write8_of_inImage imm h) _, Mem.read_write_same _ imm hm,
      (Nat.add_assoc _ _ _).symm, rfl⟩
  · refine ⟨_, settle_map_of_ok (s.write16_of_inImage imm h) _, ?_, ?_,
      (Nat.add_assoc _ _ _).symm, rfl⟩
    · rw [← lowByte_toNat, ← Mem.read_write16_low (s.addr m) imm hm]; rfl
    · rw [← highByte_toNat, ← Mem.read_write16_high (s.addr m) imm hm]; rfl

theorem exec_movSreg_of_some {f : BitVec 3} {g : SReg} (hf : SReg.ofField f = some g) (src : RM16)
    (s : State) : exec (.movSregRm16 f src) s =
      s.settle ((s.readLoc16 (s.loc src)).map fun v => (s.setSeg g v).skip (1 + src.dlen)) := by
  simp only [exec, execMovSregRm16, hf]

theorem exec_movSreg_of_none {f : BitVec 3} (hf : SReg.ofField f = none) (src : RM16) (s : State) :
    exec (.movSregRm16 f src) s =
      .next (s.raise (.unsupportedOperand 0x8E (src.modrm Reg16.code f))) := by
  simp only [exec, execMovSregRm16, hf]

/-- Settles O32: a field of 0 to 5 names a segment register, 6 and 7 name none. -/
theorem movLoadsASegmentRegister : Obligations.MovLoadsASegmentRegister := by
  refine ⟨fun g src v s h => ?_, fun f src s hf => ?_⟩
  · rw [exec_movSreg_of_some (SReg.ofField_field g)]
    exact ⟨_, settle_map_of_ok h _, s.seg_setSeg_same g v, (Nat.add_assoc _ _ _).symm, rfl⟩
  · have hbad : sregFieldOk f = false := decide_eq_false (Nat.not_le.mpr hf)
    exact exec_movSreg_of_none ((SReg.ofField_none_iff f).mpr hbad) src s

/-! ### What a handler leaves alone -/

/-- An instruction other than INT completes or halts, and the background stays. -/
theorem exec_background {i : Instr} {s t : State} (hi : i.family ≠ .interrupt)
    (h : exec i s = .next t) : CompletesOrHalts s t ∧ SameBackground s t := by
  have hi : ∀ n, i ≠ .int n := by rintro n rfl; exact hi rfl
  refine ⟨exec_completesOrHalts hi h, ?_⟩
  rcases exec_cases hi h with h | ⟨c, rfl⟩
  · exact h.sameBackground
  · exact s.sameBackground_haltedWith _ _

/-- If the result is a state, `P` holds of it. -/
def Ensures (P : State → Prop) (r : Except Cond State) : Prop := ∀ t, r = .ok t → P t

section
variable {P : State → Prop}

theorem Ensures.ok {t : State} (h : P t) : Ensures P (.ok t) := fun _ ht => Except.ok.inj ht ▸ h

theorem Ensures.error (c : Cond) : Ensures P (.error c) := fun _ ht => by cases ht

theorem Ensures.map {α : Type} {f : α → State} (hf : ∀ a, P (f a)) (r : Except Cond α) :
    Ensures P (r.map f) := fun _ ht => by
  obtain ⟨a, -, rfl⟩ := except_map_cases ht
  exact hf a

theorem Ensures.bind {α : Type} {f : α → Except Cond State} (hf : ∀ a, Ensures P (f a))
    (r : Except Cond α) : Ensures P (r.bind f) := fun t ht => by
  obtain ⟨a, -, ht⟩ := except_bind_cases ht
  exact hf a t ht

theorem Ensures.then {Q : State → Prop} {r : Except Cond State} (hr : Ensures Q r)
    {f : State → State} (hf : ∀ t, Q t → P (f t)) : Ensures P (r.map f) := fun _ ht => by
  obtain ⟨u, hu, rfl⟩ := except_map_cases ht
  exact hf u (hr u hu)

/-- A handler that ensures `P` leaves a state with `P`, if raising a condition does so too. -/
theorem Ensures.settle {s t : State} {r : Except Cond State} (hr : Ensures P r)
    (hraise : ∀ c, P (s.raise c)) (h : s.settle r = .next t) : P t := by
  rcases State.settle_cases h with h | ⟨c, -, rfl⟩
  · exact hr t h
  · exact hraise c

end

/-- No register but the byte operand, no segment register, no byte of the image outside the operand
and no entry of the call stack changes. -/
structure ByteFrame (dst : RM8) (s t : State) : Prop where
  operand : OnlyByteOperandChanges dst s t
  segs : t.segs = s.segs
  callStack : t.callStack = s.callStack

/-- The same with a word operand. -/
structure WordFrame (dst : RM16) (s t : State) : Prop where
  operand : OnlyWordOperandChanges dst s t
  segs : t.segs = s.segs
  callStack : t.callStack = s.callStack

theorem ByteFrame.raise (dst : RM8) (s : State) (c : Cond) : ByteFrame dst s (s.raise c) :=
  ⟨⟨fun _ _ => rfl, fun _ _ => rfl, fun _ _ => rfl⟩, rfl, rfl⟩

theorem WordFrame.raise (dst : RM16) (s : State) (c : Cond) : WordFrame dst s (s.raise c) :=
  ⟨⟨fun _ _ => rfl, fun _ _ => rfl⟩, rfl, rfl⟩

theorem ByteFrame.skip {dst : RM8} {s t : State} (h : ByteFrame dst s t) (n : Nat) :
    ByteFrame dst s (t.skip n) := ⟨h.operand, h.segs, h.callStack⟩

theorem WordFrame.skip {dst : RM16} {s t : State} (h : WordFrame dst s t) (n : Nat) :
    WordFrame dst s (t.skip n) := ⟨h.operand, h.segs, h.callStack⟩

theorem ByteFrame.setR8 (s : State) (r : Reg8) (v : Byte) : ByteFrame (.reg r) s (s.setR8 r v) :=
  ⟨⟨fun _ hne => s.r8_setR8_ne v fun he => hne (he ▸ rfl), fun _ hp => s.r16_setR8_ne v (hp r rfl),
    fun _ _ => rfl⟩, rfl, rfl⟩

theorem WordFrame.setR16 (s : State) (r : Reg16) (v : Word) :
    WordFrame (.reg r) s (s.setR16 r v) :=
  ⟨⟨fun _ hne => s.r16_setR16_ne v fun he => hne (he ▸ rfl), fun _ _ => rfl⟩, rfl, rfl⟩

theorem ByteFrame.write (s : State) (m : MemOp) (v : Byte) :
    ByteFrame (.mem m) s (s.setMem (s.mem.write (s.addr m) v)) := by
  refine ⟨⟨fun _ _ => rfl, fun _ _ => rfl, fun a ha => Mem.read_write_ne _ v fun he => ha ?_⟩, rfl,
    rfl⟩
  exact ⟨Nat.le_of_eq he.symm, he ▸ Nat.lt_succ_self a⟩

theorem WordFrame.write16 (s : State) (m : MemOp) (v : Word) :
    WordFrame (.mem m) s (s.setMem (s.mem.write16 (s.addr m) v)) := by
  refine ⟨⟨fun _ _ => rfl, fun a ha => ?_⟩, rfl, rfl⟩
  have ha : ¬ (s.addr m ≤ a ∧ a < s.addr m + 2) := ha
  exact Mem.read_write16_ne _ v (by omega) (by omega)

theorem ensures_byteFrame_writeLoc8 (s : State) (dst : RM8) (v : Byte) :
    Ensures (ByteFrame dst s) (s.writeLoc8 (s.loc dst) v) := fun _ h => by
  cases dst with
  | reg r => exact Except.ok.inj h ▸ .setR8 s r v
  | mem m =>
    rcases State.writeLoc8_ok h with ⟨_, hl, -⟩ | ⟨_, hl, -, rfl⟩ <;> cases hl
    exact .write s m v

theorem ensures_wordFrame_writeLoc16 (s : State) (dst : RM16) (v : Word) :
    Ensures (WordFrame dst s) (s.writeLoc16 (s.loc dst) v) := fun _ h => by
  cases dst with
  | reg r => exact Except.ok.inj h ▸ .setR16 s r v
  | mem m =>
    rcases State.writeLoc16_ok h with ⟨_, hl, -⟩ | ⟨_, hl, -, rfl⟩ <;> cases hl
    exact .write16 s m v

theorem ensures_byteFrame_writeImm8 (s : State) (op : Byte) (dst : RM8) (v : Byte) :
    Ensures (ByteFrame dst s) (s.writeImm8 op dst v) := by
  cases dst with
  | reg r => exact .error _
  | mem m => exact ensures_byteFrame_writeLoc8 s (.mem m) v

theorem ensures_wordFrame_writeImm16 (s : State) (op : Byte) (dst : RM16) (v : Word) :
    Ensures (WordFrame dst s) (s.writeImm16 op dst v) := by
  cases dst with
  | reg r => exact .error _
  | mem m => exact ensures_wordFrame_writeLoc16 s (.mem m) v

theorem Ensures.settle_byteFrame {dst : RM8} {s t : State} {r : Except Cond State}
    (hr : Ensures (ByteFrame dst s) r) (h : s.settle r = .next t) : ByteFrame dst s t :=
  hr.settle (.raise dst s) h

theorem Ensures.settle_wordFrame {dst : RM16} {s t : State} {r : Except Cond State}
    (hr : Ensures (WordFrame dst s) r) (h : s.settle r = .next t) : WordFrame dst s t :=
  hr.settle (.raise dst s) h

/-- No general register, no byte of the image, no entry of the call stack and no segment register
but the one the field `f` names changes. -/
structure SegFrame (f : BitVec 3) (s t : State) : Prop where
  operand : NoOperandChanges s t
  segs : ∀ g, SReg.ofField f ≠ some g → t.seg g = s.seg g
  callStack : t.callStack = s.callStack

theorem SegFrame.raise (f : BitVec 3) (s : State) (c : Cond) : SegFrame f s (s.raise c) :=
  ⟨⟨fun _ => rfl, fun _ => rfl⟩, fun _ _ => rfl, rfl⟩

theorem SegFrame.setSeg {f : BitVec 3} {g : SReg} (hf : SReg.ofField f = some g) (s : State)
    (v : Word) : SegFrame f s (s.setSeg g v) :=
  ⟨⟨fun _ => rfl, fun _ => rfl⟩, fun _ hne => s.seg_setSeg_ne v fun he => hne (he ▸ hf), rfl⟩

theorem SegFrame.skip {f : BitVec 3} {s t : State} (h : SegFrame f s t) (n : Nat) :
    SegFrame f s (t.skip n) := ⟨h.operand, h.segs, h.callStack⟩

theorem exec_movSreg_segFrame {f : BitVec 3} {src : RM16} {s t : State}
    (h : exec (.movSregRm16 f src) s = .next t) : SegFrame f s t := by
  cases hf : SReg.ofField f with
  | none =>
    rw [exec_movSreg_of_none hf] at h
    exact Host.Outcome.next.inj h ▸ .raise f s _
  | some g =>
    rw [exec_movSreg_of_some hf] at h
    exact Ensures.settle (.map (fun v => (SegFrame.setSeg hf s v).skip _) _) (.raise f s) h

/-- Settles O33: by the way the destination is written; a raised condition writes none. -/
theorem movChangesItsDestinationOnly : Obligations.MovChangesItsDestinationOnly := by
  intro i s t hfam h
  obtain ⟨hends, hback⟩ := exec_background (by rw [hfam]; exact nofun) h
  have hflags : t.flags = s.flags :=
    exec_flags_of_family (by rw [hfam]; exact nofun) (by rw [hfam]; exact nofun) h
  have of_byte {dst : RM8} (hf : ByteFrame dst s t) : CompletesOrHalts s t ∧ t.flags = s.flags ∧
      t.callStack = s.callStack ∧ SameBackground s t ∧ OnlyByteOperandChanges dst s t ∧
      t.segs = s.segs := ⟨hends, hflags, hf.callStack, hback, hf.operand, hf.segs⟩
  have of_word {dst : RM16} (hf : WordFrame dst s t) : CompletesOrHalts s t ∧ t.flags = s.flags ∧
      t.callStack = s.callStack ∧ SameBackground s t ∧ OnlyWordOperandChanges dst s t ∧
      t.segs = s.segs := ⟨hends, hflags, hf.callStack, hback, hf.operand, hf.segs⟩
  cases i
  case movRm8R8 =>
    exact of_byte
      (((ensures_byteFrame_writeLoc8 s _ _).then fun _ ht => ht.skip _).settle_byteFrame h)
  case movRm16R16 =>
    exact of_word
      (((ensures_wordFrame_writeLoc16 s _ _).then fun _ ht => ht.skip _).settle_wordFrame h)
  case movR8Rm8 | movAlMoffs8 =>
    exact of_byte ((Ensures.map (fun v => (ByteFrame.setR8 s _ v).skip _) _).settle_byteFrame h)
  case movR16Rm16 | movAxMoffs16 =>
    exact of_word ((Ensures.map (fun v => (WordFrame.setR16 s _ v).skip _) _).settle_wordFrame h)
  case movSregRm16 =>
    have hf := exec_movSreg_segFrame h
    exact ⟨hends, hflags, hf.callStack, hback, hf.operand, hf.segs⟩
  case movR8Imm8 =>
    exact of_byte ((Ensures.ok ((ByteFrame.setR8 s _ _).skip _)).settle_byteFrame h)
  case movR16Imm16 =>
    exact of_word ((Ensures.ok ((WordFrame.setR16 s _ _).skip _)).settle_wordFrame h)
  case movRm8Imm8 =>
    exact of_byte
      (((ensures_byteFrame_writeImm8 s _ _ _).then fun _ ht => ht.skip _).settle_byteFrame h)
  case movRm16Imm16 =>
    exact of_word
      (((ensures_wordFrame_writeImm16 s _ _ _).then fun _ ht => ht.skip _).settle_wordFrame h)
  all_goals cases hfam

end Sys2Proof.Machine

/-! ### The flag function (41_flags.md) -/

namespace Sys2Proof.Machine

open Sys2Proof.Config

theorem wrapSub_toNat {w : Nat} (a b : BitVec w) : wrapSub w a.toNat b.toNat = (a - b).toNat := by
  have := b.isLt
  rw [wrapSub, BitVec.toNat_sub]
  congr 1
  omega

/-- A difference exceeds its first operand just when it wraps. -/
theorem lt_wrapSub_iff {w a b : Nat} (ha : a < 2 ^ w) (hb : b < 2 ^ w) :
    a < wrapSub w a b ↔ a < b := by
  unfold wrapSub
  rcases Nat.lt_or_ge a b with h | h
  · rw [Nat.mod_eq_of_lt (by omega)]; omega
  · have hsplit : a + 2 ^ w - b = a - b + 2 ^ w := by omega
    rw [hsplit, Nat.add_mod_right, Nat.mod_eq_of_lt (by omega)]; omega

/-- The flag function computes the flags of the subtraction in numbers. -/
theorem flagsOfSub_of_flags {w : Nat} {reading : OfReading} {a b : BitVec w}
    {t : State} (ht : t.flags = subFlags reading a b) :
    FlagsOfSub reading w a.toNat b.toNat t where
  cf := by simp [State.flag, ht, subFlags]
  zf := by simp [State.flag, ht, subFlags, BitVec.toNat_inj]
  sf := by simp [State.flag, ht, subFlags, wrapSub_toNat, BitVec.msb_eq_decide]
  of := by cases reading <;> simp [State.flag, ht, subFlags, wrapSub_toNat, BitVec.lt_def]

section
variable {reading : OfReading} {w a b : Nat} {t : State}

theorem FlagsOfSub.of_wrap (h : FlagsOfSub .wrap w a b t) (ha : a < 2 ^ w) (hb : b < 2 ^ w) :
    t.flag .of = decide (a < b) := by
  rw [Bool.eq_iff_iff, h.of, decide_eq_true_iff, lt_wrapSub_iff ha hb]
  exact and_iff_right rfl

theorem FlagsOfSub.of_intPromote (h : FlagsOfSub .intPromote w a b t) : t.flag .of = false :=
  Bool.eq_false_iff.mpr fun hof => by cases (h.of.mp hof).1

/-- What JL tests after a comparison under the wrapping reading (41_flags.md R168). -/
theorem FlagsOfSub.condL_wrap (h : FlagsOfSub .wrap w a b t) (ha : a < 2 ^ w) (hb : b < 2 ^ w) :
    t.condL = true ↔ (2 ^ (w - 1) ≤ wrapSub w a b ↔ ¬ a < b) := by
  rw [State.condL, h.of_wrap ha hb, bne_iff_ne, ne_eq, Bool.eq_iff_iff, decide_eq_true_iff, h.sf]
  tauto

end

/-- Settles O37: the flags of the subtraction are those of its formulas at every width; under the
wrapping reading OF is the borrow. -/
theorem flagFunctionAndJl : Obligations.FlagFunctionAndJl := by
  intro s w a b _
  have hflags : FlagsOfSub s.cfg.ofReading w a.toNat b.toNat
      (s.setFlags (subFlags s.cfg.ofReading a b)) := flagsOfSub_of_flags rfl
  refine ⟨⟨_, s.subFlags_ok a b, hflags, fun hr => ?_, fun hr => ?_, rfl, rfl, rfl, rfl⟩,
    fun n => rfl⟩
  · generalize s.setFlags _ = t at hflags
    rw [hr] at hflags
    exact ⟨hflags.of_wrap a.isLt b.isLt, hflags.condL_wrap a.isLt b.isLt⟩
  · generalize s.setFlags _ = t at hflags
    rw [hr] at hflags
    exact ⟨hflags.of_intPromote, by simp [State.condL, hflags.of_intPromote]⟩

/-! ### SUB and CMP (43_arith_logic.md sections 1 and 2) -/

theorem settle_bind_of_ok {α : Type} {s : State} {r : Except Cond α} {a : α} (h : r = .ok a)
    (f : α → Except Cond State) : s.settle (r.bind f) = s.settle (f a) := by
  rw [h]; rfl

/-- Settles O34: the operand is read, and register and flags take the difference. -/
theorem subRegisterForms : Obligations.SubRegisterForms := by
  refine ⟨fun dst src b s h => ?_, fun dst src b s h => ?_⟩
  · refine ⟨_, settle_bind_of_ok h _, ?_, flagsOfSub_of_flags rfl, (Nat.add_assoc _ _ _).symm, rfl⟩
    rw [wrapSub_toNat]
    exact congrArg BitVec.toNat (State.r8_setR8_same _ dst _)
  · refine ⟨_, settle_bind_of_ok h _, ?_, flagsOfSub_of_flags rfl, (Nat.add_assoc _ _ _).symm, rfl⟩
    rw [wrapSub_toNat]
    exact congrArg BitVec.toNat (State.r16_setR16_same _ dst _)

/-- Settles O36: the operands are read, and only flags and pc are written. -/
theorem compareForms : Obligations.CompareForms := by
  refine ⟨fun lhs rhs b s h => ?_, fun lhs rhs b s h => ?_, fun lhs imm a s h => ?_,
    fun lhs imm a s h => ?_⟩
  · exact ⟨_, settle_bind_of_ok h _, flagsOfSub_of_flags rfl, rfl, rfl,
      (Nat.add_assoc _ _ _).symm, rfl⟩
  · exact ⟨_, settle_bind_of_ok h _, flagsOfSub_of_flags rfl, rfl, rfl,
      (Nat.add_assoc _ _ _).symm, rfl⟩
  · rw [← sext16_toNat]
    exact ⟨_, settle_bind_of_ok h _, flagsOfSub_of_flags rfl, rfl, rfl,
      (Nat.add_assoc _ _ _).symm, rfl⟩
  · exact ⟨_, settle_bind_of_ok h _, flagsOfSub_of_flags rfl, rfl, rfl,
      (Nat.add_assoc _ _ _).symm, rfl⟩

theorem State.fits_of_readLoc8 {s : State} {rm : RM8} {v : Byte}
    (h : s.readLoc8 (s.loc rm) = .ok v) : s.fits 1 rm := by
  cases rm with
  | reg r => trivial
  | mem m =>
    rcases s.read8_cases (s.addr m) with ⟨hi, -⟩ | ⟨-, e⟩
    · exact hi
    · cases e.symm.trans h

theorem State.fits_of_readLoc16 {s : State} {rm : RM16} {v : Word}
    (h : s.readLoc16 (s.loc rm) = .ok v) : s.fits 2 rm := by
  cases rm with
  | reg r => trivial
  | mem m =>
    rcases s.read16_cases (s.addr m) with ⟨hi, -⟩ | ⟨-, e⟩
    · exact hi
    · cases e.symm.trans h

@[simp] theorem State.setFlags_loc {ρ : Type} (s : State) (f : Flags) (rm : RM ρ) :
    (s.setFlags f).loc rm = s.loc rm := by cases rm <;> rfl

theorem State.setFlags_fits {ρ : Type} (s : State) (f : Flags) (n : Nat) (rm : RM ρ) :
    (s.setFlags f).fits n rm ↔ s.fits n rm := by cases rm <;> exact Iff.rfl

/-- Settles O35: an operand that was read is in the image, so the difference can be stored there. -/
theorem subImmediateForm : Obligations.SubImmediateForm := by
  intro dst imm a s hm h
  let f := subFlags s.cfg.ofReading a (sext16 imm)
  have hfit := (s.setFlags_fits f 2 dst).mpr (State.fits_of_readLoc16 h)
  obtain ⟨t, ht, hv, hflags, hpc, hrun⟩ := 
    State.writeLoc16_of_fits (s := s.setFlags f) (a - sext16 imm) hm hfit
  rw [State.setFlags_loc] at ht hv
  refine ⟨t.skip (2 + dst.dlen), _, (settle_bind_of_ok h _).trans (settle_map_of_ok ht _),
    by rw [State.readLoc16_skip, hv], ?_, ?_, ?_, hrun⟩
  · rw [← sext16_toNat, wrapSub_toNat]
  · rw [← sext16_toNat]; exact flagsOfSub_of_flags hflags
  · rw [State.skip_pc, hpc, Nat.add_assoc]; rfl

/-! ### AND and SHR (43_arith_logic.md sections 3 and 4) -/

/-- A byte operand that can be read is replaced by `f` of its value. -/
theorem State.modify8_of_read {s : State} {dst : RM8} {v : Byte} (hm : s.mem.wf)
    (h : s.readLoc8 (s.loc dst) = .ok v) (f : Byte → Byte) (n : Nat) :
    ∃ t, s.modify8 dst f n = .ok t ∧ t.readLoc8 (s.loc dst) = .ok (f v) ∧ t.flags = s.flags ∧
      t.pc = s.pc + n ∧ t.runState = s.runState := by
  obtain ⟨t, ht, hv, hflags, hpc, hrun⟩ := s.writeLoc8_of_fits (f v) hm (State.fits_of_readLoc8 h)
  refine ⟨t.skip n, ?_, by rw [State.readLoc8_skip, hv], hflags, congrArg (· + n) hpc, hrun⟩
  rw [State.modify8, h, except_bind_ok, ht, except_map_ok]

/-- A word operand that can be read is replaced by `f` of its value. -/
theorem State.modify16_of_read {s : State} {dst : RM16} {v : Word} (hm : s.mem.wf)
    (h : s.readLoc16 (s.loc dst) = .ok v) (f : Word → Word) (n : Nat) :
    ∃ t, s.modify16 dst f n = .ok t ∧ t.readLoc16 (s.loc dst) = .ok (f v) ∧ t.flags = s.flags ∧
      t.pc = s.pc + n ∧ t.runState = s.runState := by
  obtain ⟨t, ht, hv, hflags, hpc, hrun⟩ := s.writeLoc16_of_fits (f v) hm (State.fits_of_readLoc16 h)
  refine ⟨t.skip n, ?_, by rw [State.readLoc16_skip, hv], hflags, congrArg (· + n) hpc, hrun⟩
  rw [State.modify16, h, except_bind_ok, ht, except_map_ok]

/-- Settles O38: each form modifies its operand by the AND with its immediate. -/
theorem andForms : Obligations.AndForms := by
  refine ⟨fun dst imm v s hm h => ?_, fun dst imm v s hm h => ?_, fun dst imm v s hm h => ?_⟩
  · obtain ⟨t, ht, hv, hflags, hpc, hrun⟩ :=
      State.modify8_of_read hm h (· &&& imm) (2 + dst.dlen)
    exact ⟨t, congrArg s.settle ht, hv, hflags, by rw [hpc, Nat.add_assoc], hrun⟩
  · obtain ⟨t, ht, hv, hflags, hpc, hrun⟩ :=
      State.modify16_of_read hm h (· &&& imm) (3 + dst.dlen)
    exact ⟨t, congrArg s.settle ht, hv, hflags, by rw [hpc, Nat.add_assoc], hrun⟩
  · obtain ⟨t, ht, hv, hflags, hpc, hrun⟩ :=
      State.modify16_of_read hm h (· &&& sext16 imm) (2 + dst.dlen)
    exact ⟨t, congrArg s.settle ht, hv, hflags, by rw [hpc, Nat.add_assoc], hrun⟩

/-- Settles O39: a logical shift right by one is division by two. -/
theorem shrForms : Obligations.ShrForms := by
  refine ⟨fun dst v s hm h => ?_, fun dst v s hm h => ?_⟩
  · obtain ⟨t, ht, hv, hflags, hpc, hrun⟩ := State.modify8_of_read hm h (· >>> 1) (1 + dst.dlen)
    exact ⟨t, _, congrArg s.settle ht, hv, by rw [BitVec.toNat_ushiftRight, Nat.shiftRight_one],
      hflags, by rw [hpc, Nat.add_assoc], hrun⟩
  · obtain ⟨t, ht, hv, hflags, hpc, hrun⟩ := State.modify16_of_read hm h (· >>> 1) (1 + dst.dlen)
    exact ⟨t, _, congrArg s.settle ht, hv, by rw [BitVec.toNat_ushiftRight, Nat.shiftRight_one],
      hflags, by rw [hpc, Nat.add_assoc], hrun⟩

/-! ### What arithmetic leaves alone -/

/-- No register, segment register, byte of the image or entry of the call stack changes. -/
structure NoOperandFrame (s t : State) : Prop where
  operand : NoOperandChanges s t
  segs : t.segs = s.segs
  callStack : t.callStack = s.callStack

theorem NoOperandFrame.of_regs_mem {s t : State} (hregs : t.regs = s.regs) (hmem : t.mem = s.mem)
    (hsegs : t.segs = s.segs) (hcall : t.callStack = s.callStack) : NoOperandFrame s t :=
  ⟨⟨fun r => congrArg (Regs.get · r) hregs, fun a => congrArg (Mem.read · a) hmem⟩, hsegs, hcall⟩

theorem Ensures.settle_noOperandFrame {s t : State} {r : Except Cond State}
    (hr : Ensures (NoOperandFrame s) r) (h : s.settle r = .next t) : NoOperandFrame s t :=
  hr.settle (fun _ => .of_regs_mem rfl rfl rfl rfl) h

/-- Flags and pc are all that a comparison writes. -/
theorem ensures_noOperandFrame_subFlags {α : Type} {w : Nat} (s : State) (r : Except Cond α)
    (a b : α → BitVec w) (n : Nat) :
    Ensures (NoOperandFrame s) (r.bind fun v => (s.subFlags (a v) (b v)).map (·.skip n)) :=
  .bind (fun _ => .ok (.of_regs_mem rfl rfl rfl rfl)) r

theorem ByteFrame.setFlags_setR8 (s : State) (f : Flags) (r : Reg8) (v : Byte) :
    ByteFrame (.reg r) s ((s.setFlags f).setR8 r v) :=
  ⟨(ByteFrame.setR8 (s.setFlags f) r v).operand, rfl, rfl⟩

theorem WordFrame.setFlags_setR16 (s : State) (f : Flags) (r : Reg16) (v : Word) :
    WordFrame (.reg r) s ((s.setFlags f).setR16 r v) :=
  ⟨(WordFrame.setR16 (s.setFlags f) r v).operand, rfl, rfl⟩

theorem WordFrame.of_setFlags {s t : State} {f : Flags} {dst : RM16}
    (h : WordFrame dst (s.setFlags f) t) : WordFrame dst s t := by
  cases dst <;> exact ⟨h.operand, h.segs, h.callStack⟩

theorem ensures_byteFrame_modify8 (s : State) (dst : RM8) (f : Byte → Byte) (n : Nat) :
    Ensures (ByteFrame dst s) (s.modify8 dst f n) :=
  .bind (fun v => (ensures_byteFrame_writeLoc8 s dst (f v)).then fun _ ht => ht.skip n) _

theorem ensures_wordFrame_modify16 (s : State) (dst : RM16) (f : Word → Word) (n : Nat) :
    Ensures (WordFrame dst s) (s.modify16 dst f n) :=
  .bind (fun v => (ensures_wordFrame_writeLoc16 s dst (f v)).then fun _ ht => ht.skip n) _

theorem exec_subRm16Imm8_wordFrame {dst : RM16} {imm : Byte} {s t : State}
    (h : exec (.subRm16Imm8 dst imm) s = .next t) : WordFrame dst s t := by
  refine Ensures.settle_wordFrame (.bind (fun a => ?_) _) h
  have hw := ensures_wordFrame_writeLoc16 (s.setFlags (subFlags s.cfg.ofReading a (sext16 imm)))
    dst (a - sext16 imm)
  rw [State.setFlags_loc] at hw
  exact hw.then fun _ ht => ht.of_setFlags.skip _

/-- Settles O40: by the way the destination is written; a comparison has none. -/
theorem arithmeticChangesItsDestinationOnly :
    Obligations.ArithmeticChangesItsDestinationOnly := by
  intro i s t hfam h
  have hint : i.family ≠ .interrupt := by rcases hfam with hf | hf <;> rw [hf] <;> exact nofun
  obtain ⟨hends, hback⟩ := exec_background hint h
  have hflags : i.family = .andShr → t.flags = s.flags := fun hf =>
    exec_flags_of_family (by rw [hf]; exact nofun) (by rw [hf]; exact nofun) h
  have of_byte {dst : RM8} (hf : ByteFrame dst s t) : CompletesOrHalts s t ∧ t.segs = s.segs ∧
      t.callStack = s.callStack ∧ SameBackground s t ∧ (i.family = .andShr → t.flags = s.flags) ∧
      OnlyByteOperandChanges dst s t := ⟨hends, hf.segs, hf.callStack, hback, hflags, hf.operand⟩
  have of_word {dst : RM16} (hf : WordFrame dst s t) : CompletesOrHalts s t ∧ t.segs = s.segs ∧
      t.callStack = s.callStack ∧ SameBackground s t ∧ (i.family = .andShr → t.flags = s.flags) ∧
      OnlyWordOperandChanges dst s t := ⟨hends, hf.segs, hf.callStack, hback, hflags, hf.operand⟩
  have of_compare (hf : NoOperandFrame s t) : CompletesOrHalts s t ∧ t.segs = s.segs ∧
      t.callStack = s.callStack ∧ SameBackground s t ∧ (i.family = .andShr → t.flags = s.flags) ∧
      NoOperandChanges s t := ⟨hends, hf.segs, hf.callStack, hback, hflags, hf.operand⟩
  cases i
  case subR8Rm8 =>
    exact of_byte (Ensures.settle_byteFrame
      (.bind (fun _ => .ok ((ByteFrame.setFlags_setR8 s _ _ _).skip _)) _) h)
  case subR16Rm16 =>
    exact of_word (Ensures.settle_wordFrame
      (.bind (fun _ => .ok ((WordFrame.setFlags_setR16 s _ _ _).skip _)) _) h)
  case subRm16Imm8 => exact of_word (exec_subRm16Imm8_wordFrame h)
  case cmpR8Rm8 lhs rhs =>
    exact of_compare
      ((ensures_noOperandFrame_subFlags s _ (fun _ => s.r8 lhs) id _).settle_noOperandFrame h)
  case cmpR16Rm16 lhs rhs =>
    exact of_compare
      ((ensures_noOperandFrame_subFlags s _ (fun _ => s.r16 lhs) id _).settle_noOperandFrame h)
  case cmpRm16Imm8 lhs imm =>
    exact of_compare
      ((ensures_noOperandFrame_subFlags s _ id (fun _ => sext16 imm) _).settle_noOperandFrame h)
  case cmpRm8Imm8 lhs imm =>
    exact of_compare
      ((ensures_noOperandFrame_subFlags s _ id (fun _ => imm) _).settle_noOperandFrame h)
  case andRm8Imm8 | shrRm8 => exact of_byte ((ensures_byteFrame_modify8 s _ _ _).settle_byteFrame h)
  case andRm16Imm16 | andRm16Imm8 | shrRm16 =>
    exact of_word ((ensures_wordFrame_modify16 s _ _ _).settle_wordFrame h)
  all_goals simp [Instr.family] at hfam

end Sys2Proof.Machine

/-! ### PUSH and POP (44_stack.md) -/

namespace Sys2Proof.Machine

theorem sub_two_toNat (v : Word) : (v - 2).toNat = (v.toNat + 65534) % 65536 := by
  rw [BitVec.toNat_sub, Nat.add_comm]; rfl

theorem sub_one_toNat (v : Word) : (v - 1).toNat = (v.toNat + 65535) % 65536 := by
  rw [BitVec.toNat_sub, Nat.add_comm]; rfl

theorem add_two_toNat (v : Word) : (v + 2).toNat = (v.toNat + 2) % 65536 := BitVec.toNat_add _ _

theorem add_one_toNat (v : Word) : (v + 1).toNat = (v.toNat + 1) % 65536 := BitVec.toNat_add _ _

/-- The state PUSH leaves when it stores `v` at `a`. -/
def State.pushed (s : State) (a : Nat) (v : Word) : State :=
  (s.setR16 .sp (s.r16 .sp - 2)).setMem (s.mem.write16 a v)

/-- The state POP leaves when it loads `v` into `r`. -/
def State.popped (s : State) (r : Reg16) (v : Word) : State :=
  (s.setR16 .sp (s.r16 .sp + 2)).setR16 r v

theorem exec_push_of_inImage {s : State} (r : Reg16)
    (h : s.inImage (s.lin .ss (s.r16 .sp - 2).toNat) 2) :
    exec (.pushR16 r) s = .next (s.pushed (s.lin .ss (s.r16 .sp - 2).toNat) (s.r16 r)) := by
  rcases s.push16_cases (s.r16 r) with ⟨-, e⟩ | ⟨hn, -⟩
  · exact congrArg s.settle e
  · exact absurd h hn

theorem exec_push_of_outside {s : State} (r : Reg16)
    (h : ¬ s.inImage (s.lin .ss (s.r16 .sp - 2).toNat) 2) :
    exec (.pushR16 r) s = .next (s.raise (.memOutOfRange (s.lin .ss (s.r16 .sp - 2).toNat) 2)) := by
  rcases s.push16_cases (s.r16 r) with ⟨hi, -⟩ | ⟨-, e⟩
  · exact absurd hi h
  · exact congrArg s.settle e

theorem exec_pop_of_inImage {s : State} (r : Reg16)
    (h : s.inImage (s.lin .ss (s.r16 .sp).toNat) 2) :
    exec (.popR16 r) s = .next (s.popped r (joinBytes
      (s.mem.read (s.lin .ss (s.r16 .sp).toNat + 1))
      (s.mem.read (s.lin .ss (s.r16 .sp).toNat)))) := by
  rcases s.pop16_cases with ⟨-, e⟩ | ⟨hn, -⟩
  · exact settle_map_of_ok e _
  · exact absurd h hn

theorem exec_pop_of_outside {s : State} (r : Reg16)
    (h : ¬ s.inImage (s.lin .ss (s.r16 .sp).toNat) 2) :
    exec (.popR16 r) s = .next (s.raise (.memOutOfRange (s.lin .ss (s.r16 .sp).toNat) 2)) := by
  rcases s.pop16_cases with ⟨hi, -⟩ | ⟨-, e⟩
  · exact absurd hi h
  · exact settle_map_of_error e _

/-- Settles O41: the stack top before and after, in plain numbers. -/
theorem pushAndPop : Obligations.PushAndPop := by
  refine ⟨fun r s a ha => ?_, fun r s a ha => ?_⟩
  · rw [← sub_two_toNat, ← State.lin_eq] at ha
    subst ha
    refine ⟨fun hm h => ⟨_, exec_push_of_inImage r h, ?_, ?_, ?_, rfl, rfl⟩,
      fun h => exec_push_of_outside r (Nat.not_le.mpr h)⟩
    · rw [← sub_two_toNat]
      exact congrArg BitVec.toNat (s.r16_setR16_same .sp _)
    · rw [← lowByte_toNat, ← Mem.read_write16_low _ (s.r16 r) hm]; rfl
    · rw [← highByte_toNat, ← Mem.read_write16_high _ (s.r16 r) hm]; rfl
  · rw [← State.lin_eq] at ha
    subst ha
    refine ⟨fun h => ⟨_, exec_pop_of_inImage r h, ?_, fun hne => ?_, rfl, rfl⟩,
      fun h => exec_pop_of_outside r (Nat.not_le.mpr h)⟩
    · rw [State.popped, State.r16_setR16_same, joinBytes_toNat]
    · rw [State.popped, State.r16_setR16_ne _ _ (Ne.symm hne), State.r16_setR16_same, add_two_toNat]

@[simp] theorem Regs.set_get_same (g : Regs) (r : Reg16) : g.set r (g.get r) = g := by
  cases r <;> rfl

@[simp] theorem Regs.set_set_same (g : Regs) (r : Reg16) (v w : Word) :
    (g.set r v).set r w = g.set r w := by
  cases r <;> rfl

/-- SP goes down and up again. -/
theorem State.regs_setR16_back (s : State) (k : Word) :
    (s.regs.set .sp (s.r16 .sp - k)).set .sp
      ((s.regs.set .sp (s.r16 .sp - k)).get .sp + k) = s.regs := by
  rw [Regs.get_set_same, BitVec.sub_add_cancel, Regs.set_set_same]
  exact Regs.set_get_same _ _

/-- Settles O42: POP finds SP and the word at the top as PUSH left them, the word being the register
as it was before SP changed. -/
theorem pushThenPopRestoresTheRegisters : Obligations.PushThenPopRestoresTheRegisters := by
  intro r s n hm hfit
  rw [← sub_two_toNat, ← State.lin_eq] at hfit
  let a := s.lin .ss (s.r16 .sp - 2).toNat
  let t := s.pushed a (s.r16 r)
  have hsp : t.r16 .sp = s.r16 .sp - 2 := s.r16_setR16_same .sp _
  have htop : (t.setPc n).lin .ss ((t.setPc n).r16 .sp).toNat = a := by
    show s.lin .ss (t.r16 .sp).toNat = a
    rw [hsp]
  have hword : joinBytes (t.mem.read (a + 1)) (t.mem.read a) = s.r16 r := by
    show joinBytes ((s.mem.write16 a (s.r16 r)).read (a + 1)) _ = _
    rw [Mem.read_write16_high a _ hm]
    show joinBytes _ ((s.mem.write16 a (s.r16 r)).read a) = _
    rw [Mem.read_write16_low a _ hm, joinBytes_high_low]
  have hpop := exec_pop_of_inImage (s := t.setPc n) r (htop ▸ hfit)
  rw [htop, State.setPc_mem, hword] at hpop
  refine ⟨t, _, exec_push_of_inImage r hfit, hpop, ?_, rfl, rfl⟩
  show ((s.regs.set .sp (s.r16 .sp - 2)).set .sp
    ((s.regs.set .sp (s.r16 .sp - 2)).get .sp + 2)).set r (s.regs.get r) = s.regs
  rw [State.regs_setR16_back, Regs.set_get_same]

/-- Settles O43: the byte stack moves SP by one. -/
theorem byteStackPrimitives : Obligations.ByteStackPrimitives := by
  intro s v
  refine ⟨fun a ha hm hfit => ?_, fun a ha hfit => ?_⟩
  · rw [← sub_one_toNat, ← State.lin_eq] at ha
    subst ha
    let t := (s.setR16 .sp (s.r16 .sp - 1)).setMem
      (s.mem.write (s.lin .ss (s.r16 .sp - 1).toNat) v)
    have hsp : t.r16 .sp = s.r16 .sp - 1 := s.r16_setR16_same .sp _
    have hread : t.read8 (t.lin .ss (t.r16 .sp).toNat) = .ok v := by
      rw [hsp]
      exact State.read8_after_write (s := s.setR16 .sp _) v hm hfit
    refine ⟨t, t.setR16 .sp (t.r16 .sp + 1), State.write8_of_inImage v hfit,
      Mem.read_write_same _ v hm, by rw [hsp, sub_one_toNat], ?_, s.regs_setR16_back 1⟩
    rw [State.pop8, hread]
    rfl
  · rw [← State.lin_eq] at ha
    subst ha
    refine ⟨s.setR16 .sp (s.r16 .sp + 1), ?_, rfl, by rw [s.r16_setR16_same, add_one_toNat]⟩
    rw [State.pop8, State.read8_of_inImage hfit]
    rfl

/-- Settles O44: SP and the two bytes, or SP and the register, are all a completed PUSH or POP
writes. -/
theorem stackInstructionsChangeSpAndTheirOperandOnly :
    Obligations.StackInstructionsChangeSpAndTheirOperandOnly := by
  intro s t r
  refine ⟨fun h => ?_, fun h => ?_⟩ <;>
    obtain ⟨hends, hback⟩ := exec_background (by simp [Instr.family]) h <;>
    refine ⟨hends, exec_flags_of_family (by simp [Instr.family]) (by simp [Instr.family]) h, ?_⟩
  · by_cases hin : s.inImage (s.lin .ss (s.r16 .sp - 2).toNat) 2
    · rw [exec_push_of_inImage r hin] at h
      cases h
      exact ⟨rfl, rfl, hback, fun q hq => s.r16_setR16_ne _ hq,
        fun a ha => Mem.read_write16_ne _ _ (by omega) (by omega)⟩
    · rw [exec_push_of_outside r hin] at h
      cases h
      exact ⟨rfl, rfl, hback, fun _ _ => rfl, fun _ _ => rfl⟩
  · by_cases hin : s.inImage (s.lin .ss (s.r16 .sp).toNat) 2
    · rw [exec_pop_of_inImage r hin] at h
      cases h
      exact ⟨rfl, rfl, hback, fun q hsp hr => (State.r16_setR16_ne _ _ hr).trans
        (s.r16_setR16_ne _ hsp), fun _ => rfl⟩
    · rw [exec_pop_of_outside r hin] at h
      cases h
      exact ⟨rfl, rfl, hback, fun _ _ _ => rfl, fun _ => rfl⟩

/-! ### Control transfer (45_control_transfer.md) -/

theorem target_of_nonneg {next : Nat} {d : Int} (h : 0 ≤ (next : Int) + d) :
    target next d = .ok ((next : Int) + d).toNat := if_neg (Int.not_lt.mpr h)

theorem target_of_neg {next : Nat} {d : Int} (h : (next : Int) + d < 0) :
    target next d = .error (.branchOutOfRange (next + d)) := if_pos h

/-- Settles O45: each short jump is `jumpShort` with the condition it tests. -/
theorem shortJumps : Obligations.ShortJumps := by
  intro rel s i taken hi
  have hx : exec i s = s.settle (s.jumpShort taken rel) := by
    simp only [List.mem_cons, Prod.mk.injEq, List.not_mem_nil, or_false] at hi
    rcases hi with ⟨rfl, rfl⟩ | ⟨rfl, rfl⟩ | ⟨rfl, rfl⟩ | ⟨rfl, rfl⟩ <;> rfl
  rw [hx]
  refine ⟨fun ht => ?_, fun ht h => ?_, fun ht h => ?_⟩ <;> subst ht
  · rfl
  · exact settle_map_of_ok (target_of_nonneg (next := s.pc + 1) h) _
  · exact settle_map_of_error (target_of_neg (next := s.pc + 1) h) _

theorem exec_call_of_full {s : State} (h : s.callStack.length = 256) (rel : Word) :
    exec (.call rel) s = .next (s.raise (.callStackOverflow (s.pc + 2))) :=
  congrArg s.settle (if_pos h)

theorem exec_call_of_room {s : State} (h : s.callStack.length ≠ 256) (rel : Word) :
    exec (.call rel) s = s.settle ((target (s.pc + 2) rel.toInt).map fun t =>
      (s.pushCall (s.pc + 2)).setPc t) := congrArg s.settle (if_neg h)

/-- Settles O46: the bound of the call stack is looked at first, then the target. -/
theorem callPushesTheReturnIndex : Obligations.CallPushesTheReturnIndex := by
  intro rel s
  refine ⟨fun hl h => ?_, fun hl h => ?_, fun hl => exec_call_of_full hl rel⟩
  · rw [exec_call_of_room hl]
    exact settle_map_of_ok (target_of_nonneg (next := s.pc + 2) h) _
  · rw [exec_call_of_room hl]
    exact settle_map_of_error (target_of_neg (next := s.pc + 2) h) _

theorem exec_ret_of_concat {s : State} {rest : List Nat} {top : Nat}
    (h : s.callStack = rest ++ [top]) :
    exec .ret s = .next { s with pc := top, callStack := rest } := by
  simp only [exec, execRet, h, List.getLast?_concat]
  simp only [State.popCall, State.setPc, h, List.dropLast_concat]

theorem exec_ret_of_nil {s : State} (h : s.callStack = []) :
    exec .ret s = .next (s.raise .callStackUnderflow) := by
  simp only [exec, execRet, h, List.getLast?_nil]

/-- Settles O47: by whether the call stack has a top. -/
theorem retPopsTheReturnIndex : Obligations.RetPopsTheReturnIndex :=
  fun _ => ⟨fun _ _ => exec_ret_of_concat, exec_ret_of_nil⟩

/-- Settles O48: CALL leaves the index after it on top, and RET takes that. -/
theorem returnFollowsItsCall : Obligations.ReturnFollowsItsCall := by
  intro rel s t u _ h ht hu
  have hcall : t.callStack = s.callStack ++ [s.pc + 2] := (execCall_pc h (.inl ht)).2
  exact ⟨_, exec_ret_of_concat (hu.trans hcall), rfl, rfl, rfl, rfl⟩

/-- No register, segment register and byte of the image changes. -/
structure TransferFrame (s t : State) : Prop where
  regs : t.regs = s.regs
  segs : t.segs = s.segs
  mem : t.mem = s.mem

theorem exec_jump_frame {s t : State} {taken : Bool} {rel : Byte}
    (h : s.settle (s.jumpShort taken rel) = .next t) :
    TransferFrame s t ∧ t.callStack = s.callStack := by
  cases taken with
  | false => cases h; exact ⟨⟨rfl, rfl, rfl⟩, rfl⟩
  | true =>
    rcases target_cases (s.pc + 1) rel.toInt with ⟨-, e⟩ | ⟨-, e⟩
    · cases (settle_map_of_ok e _).symm.trans h; exact ⟨⟨rfl, rfl, rfl⟩, rfl⟩
    · cases (settle_map_of_error e _).symm.trans h; exact ⟨⟨rfl, rfl, rfl⟩, rfl⟩

theorem exec_call_frame {s t : State} {rel : Word} (h : exec (.call rel) s = .next t) :
    TransferFrame s t := by
  by_cases hl : s.callStack.length = 256
  · rw [exec_call_of_full hl] at h
    cases h; exact ⟨rfl, rfl, rfl⟩
  · rw [exec_call_of_room hl] at h
    rcases target_cases (s.pc + 2) rel.toInt with ⟨-, e⟩ | ⟨-, e⟩
    · cases (settle_map_of_ok e _).symm.trans h; exact ⟨rfl, rfl, rfl⟩
    · cases (settle_map_of_error e _).symm.trans h; exact ⟨rfl, rfl, rfl⟩

theorem exec_ret_frame {s t : State} (h : exec .ret s = .next t) : TransferFrame s t := by
  rcases List.eq_nil_or_concat s.callStack with hnil | ⟨rest, top, hc⟩
  · rw [exec_ret_of_nil hnil] at h
    cases h; exact ⟨rfl, rfl, rfl⟩
  · rw [exec_ret_of_concat (hc.trans List.concat_eq_append)] at h
    cases h; exact ⟨rfl, rfl, rfl⟩

/-- A control transfer changes pc, and CALL and RET the call stack. -/
theorem exec_transfer_frame {i : Instr} {s t : State} (hfam : i.family = .control)
    (h : exec i s = .next t) :
    TransferFrame s t ∧ ((∀ rel, i ≠ .call rel) → i ≠ .ret → t.callStack = s.callStack) := by
  cases i
  case jz | jnz | jl | jmp =>
    obtain ⟨hf, hcall⟩ := exec_jump_frame h
    exact ⟨hf, fun _ _ => hcall⟩
  case call rel => exact ⟨exec_call_frame h, fun hne => absurd rfl (hne rel)⟩
  case ret => exact ⟨exec_ret_frame h, fun _ hne => absurd rfl hne⟩
  all_goals cases hfam

/-- Settles O49: by the frame of each transfer. -/
theorem transfersChangePcAndTheCallStackOnly :
    Obligations.TransfersChangePcAndTheCallStackOnly := by
  intro i s t hfam h
  obtain ⟨hends, hback⟩ := exec_background (by simp [hfam]) h
  have hflags := exec_flags_of_family (by simp [hfam]) (by simp [hfam]) h
  obtain ⟨⟨hregs, hsegs, hmem⟩, hcall⟩ := exec_transfer_frame hfam h
  exact ⟨hends, fun r => congrArg (Regs.get · r) hregs, hflags, hsegs, hback,
    fun a => congrArg (Mem.read · a) hmem, hcall⟩

/-! ### String scan (46_string.md) -/

/-- The scan stops at the first byte that is `x` or `$`. -/
theorem Mem.scan_of_first {m : Mem} {x : Byte} {fuel a e : Nat} (hae : a ≤ e) (he : e < a + fuel)
    (hbefore : ∀ k, a ≤ k → k < e → m.read k ≠ x ∧ m.read k ≠ Config.sentinel)
    (hat : m.read e = x ∨ m.read e = Config.sentinel) :
    m.scan x fuel a = some (e, decide (m.read e = x)) := by
  cases hs : m.scan x fuel a with
  | none =>
    obtain ⟨hx, hd⟩ := Mem.scan_none hs e hae he
    exact absurd hat (not_or.mpr ⟨hx, hd⟩)
  | some p =>
    obtain ⟨e', hit⟩ := p
    obtain ⟨h1, -, h3, h4⟩ := Mem.scan_some hs
    have hat' : m.read e' = x ∨ m.read e' = Config.sentinel := by
      cases hit with
      | true => exact .inl h4
      | false => exact .inr h4.2
    have heq : e' = e := by
      rcases Nat.lt_trichotomy e' e with hlt | heq | hlt
      · exact absurd hat' (not_or.mpr (hbefore e' h1 hlt))
      · exact heq
      · exact absurd hat (not_or.mpr (h3 e hae hlt))
    subst heq
    cases hit with
    | true => rw [decide_eq_true (show m.read e' = x from h4)]
    | false => rw [decide_eq_false h4.1]

theorem Mem.scan_of_absent {m : Mem} {x : Byte} {fuel a : Nat}
    (h : ∀ k, a ≤ k → k < a + fuel → m.read k ≠ x ∧ m.read k ≠ Config.sentinel) :
    m.scan x fuel a = none := by
  cases hs : m.scan x fuel a with
  | none => rfl
  | some p =>
    obtain ⟨e, hit⟩ := p
    obtain ⟨h1, h2, -, h4⟩ := Mem.scan_some hs
    obtain ⟨hx, hd⟩ := h e h1 h2
    cases hit with
    | true => exact absurd h4 hx
    | false => exact absurd h4.2 hd

/-- The state a scan leaves that ends at index `e`, having begun at `a`. -/
def State.scanned (s : State) (a e : Nat) (hit : Bool) : State :=
  (s.setZf hit).setR16 .di (BitVec.ofNat 16 ((s.r16 .di).toNat + (e - a) + 1))

theorem State.scanString_of_some {s : State} {a e : Nat} {hit : Bool}
    (ha : a = s.lin .es (s.r16 .di).toNat) (h : s.mem.scan (s.r8 .al) (s.room a) a = some (e, hit))
    (n : Nat) : s.scanString n = .ok ((s.scanned a e hit).skip n) := by
  subst ha
  simp only [State.scanString, h, State.scanned]

theorem State.scanString_of_none {s : State} {a : Nat} (ha : a = s.lin .es (s.r16 .di).toNat)
    (h : s.mem.scan (s.r8 .al) (s.room a) a = none) (n : Nat) :
    s.scanString n = .error (s.pastImage a) := by
  subst ha
  simp only [State.scanString, h]

/-- Settles O50: the scan stops at the first such byte, which is before the image end. -/
theorem scanEndsAtMatchOrSentinel : Obligations.ScanEndsAtMatchOrSentinel := by
  intro i n s a e hi ha hae he hbefore hat
  have hx : exec i s = s.settle (s.scanString n) := by
    simp only [List.mem_cons, Prod.mk.injEq, List.not_mem_nil, or_false] at hi
    rcases hi with ⟨rfl, rfl⟩ | ⟨rfl, rfl⟩ <;> rfl
  have hroom : e < a + s.room a := by unfold State.room; omega
  have hs := State.scanString_of_some ha (Mem.scan_of_first hae hroom hbefore hat) n
  refine ⟨_, hx.trans (congrArg s.settle hs), decide_eq_true_iff, ?_, rfl, rfl⟩
  rw [State.skip_r16, State.scanned, State.r16_setR16_same, BitVec.toNat_ofNat]

/-- Settles O51: the scan reads to the image end and finds neither byte. -/
theorem scanPastTheImageHalts : Obligations.ScanPastTheImageHalts := by
  intro i s a hi ha habsent
  have hs : ∀ n, s.scanString n = .error (s.pastImage a) :=
    State.scanString_of_none ha (Mem.scan_of_absent fun k h1 h2 =>
      habsent k h1 (by unfold State.room at h2; omega))
  rcases hi with rfl | rfl
  · exact congrArg s.settle (hs 0)
  · exact congrArg s.settle (hs 1)

/-- A scan ends with DI, ZF and pc changed, or raises a condition. -/
theorem exec_scan_cases {i : Instr} {s t : State} (hfam : i.family = .scan)
    (h : exec i s = .next t) :
    (∃ a e hit n, t = (s.scanned a e hit).skip n) ∨ ∃ c, t = s.raise c := by
  obtain ⟨n, hx⟩ : ∃ n, exec i s = s.settle (s.scanString n) := by
    cases i <;> cases hfam
    · exact ⟨0, rfl⟩
    · exact ⟨1, rfl⟩
  rw [hx] at h
  cases hs : s.mem.scan (s.r8 .al) (s.room (s.lin .es (s.r16 .di).toNat))
      (s.lin .es (s.r16 .di).toNat) with
  | none =>
    rw [State.scanString_of_none rfl hs] at h
    cases h; exact .inr ⟨_, rfl⟩
  | some p =>
    obtain ⟨e, hit⟩ := p
    rw [State.scanString_of_some rfl hs] at h
    cases h; exact .inl ⟨_, e, hit, n, rfl⟩

/-- Settles O52: by the two ways a scan ends. -/
theorem scanChangesDiAndZfOnly : Obligations.ScanChangesDiAndZfOnly := by
  intro i s t hfam h
  obtain ⟨hends, hback⟩ := exec_background (by simp [hfam]) h
  refine ⟨hends, ?_⟩
  rcases exec_scan_cases hfam h with ⟨a, e, hit, n, rfl⟩ | ⟨c, rfl⟩
  · exact ⟨fun r hr => (s.setZf hit).r16_setR16_ne _ hr, rfl, rfl, rfl, rfl, rfl, hback,
      fun _ => rfl⟩
  · exact ⟨fun _ _ => rfl, rfl, rfl, rfl, rfl, rfl, hback, fun _ => rfl⟩

end Sys2Proof.Machine

/-! ### The services of INT (47_interrupts.md) -/

namespace Sys2Proof.Machine

open Sys2Proof.Config

/-- A vector and sub-code outside the table is diagnosed (R303). -/
theorem exec_int_of_none {n : Byte} {s : State} (h : Service.find s.cfg n (s.r8 .ah) = none) :
    exec (.int n) s = .next ((s.skip 1).note (.unsupportedInterrupt n (s.r8 .ah))) := by
  simp only [exec, execInt, h]

/-- Settles O53: by the sub-code, and for set mode by the mode in AL. -/
theorem videoServices : Obligations.VideoServices := by
  intro s
  refine ⟨fun hah hal => ?_, fun hah hal => ?_, fun hah => ?_, fun hah => ?_⟩
  · have hfind : Service.find s.cfg 0x10 (s.r8 .ah) = some .setMode := by rw [hah]; rfl
    rw [exec_int_of_find hfind]
    exact congrArg _ (if_pos hal)
  · have hfind : Service.find s.cfg 0x10 (s.r8 .ah) = some .setMode := by rw [hah]; rfl
    rw [exec_int_of_find hfind]
    exact congrArg _ (if_neg hal)
  · exact exec_int_of_find (v := .setCursor) (by rw [hah]; rfl)
  · exact exec_int_of_find (v := .setColor) (by rw [hah]; rfl)

/-- The two blocking reads run the same service. -/
theorem exec_int_read {n : Byte} {s : State}
    (h : (n = 0x16 ∧ s.r8 .ah = 0x00) ∨ (n = 0x21 ∧ s.r8 .ah = s.cfg.dosReadNoEchoAh ∧
      s.r8 .ah ∉ ([0x02, 0x09, 0x2C, 0x4C] : List Byte))) :
    exec (.int n) s = .next (s.skip 1).pollKey := by
  rcases h with ⟨rfl, hah⟩ | ⟨rfl, hah, hne⟩
  · exact exec_int_of_find (v := .readKey) (by rw [hah]; rfl)
  · have h2 : s.r8 .ah ≠ 0x02 := fun h2 => hne (by rw [h2]; decide)
    refine exec_int_of_find (v := .readNoEcho) ?_
    simp only [Service.find, if_neg h2, if_pos hah]
    rfl

/-- Settles O54: the service polls once; the poll answers or leaves the core waiting. -/
theorem blockingReads : Obligations.BlockingReads := by
  intro n s h
  rw [exec_int_read h]
  rcases (s.skip 1).pollKey_cases with ⟨b, hkey, e⟩ | ⟨hkey, e⟩
  · have hkey : s.nextKey = some b := hkey
    rw [e, State.dropKey_eq, hkey]
    refine ⟨fun b' hb => ?_, nofun⟩
    obtain rfl : b = b' := Option.some.inj hb
    exact ⟨_, rfl, s.r8_setR8_same .al b, s.r8_setR8_ne b (by decide), rfl, rfl, rfl, rfl,
      fun r hr => s.r16_setR8_ne b hr⟩
  · have hkey : s.nextKey = none := hkey
    rw [e, State.dropKey_eq, hkey]
    exact ⟨nofun, fun _ => ⟨_, rfl, rfl, rfl, rfl, rfl, rfl⟩⟩

/-! #### The string write -/

/-- Bytes that are no `$` are collected, and then what follows them. -/
theorem Mem.collect_append {m : Mem} {text : List Byte} {a : Nat}
    (hne : ∀ b ∈ text, b ≠ Config.sentinel)
    (hread : ∀ (k : Nat) (b : Byte), text[k]? = some b → m.read (a + k) = b) (fuel : Nat) :
    m.collect (text.length + fuel) a =
      (text ++ (m.collect fuel (a + text.length)).1, (m.collect fuel (a + text.length)).2) := by
  induction text generalizing a with
  | nil => simp
  | cons b text ih =>
    have hb : m.read a = b := hread 0 b rfl
    have hnext := ih (a := a + 1) (fun c hc => hne c (List.mem_cons_of_mem _ hc)) fun k c hk => by
      rw [Nat.add_assoc, Nat.add_comm 1]; exact hread (k + 1) c hk
    rw [List.length_cons, Nat.add_right_comm, Mem.collect, hb, if_neg (hne b List.mem_cons_self),
      hnext, Nat.add_assoc, Nat.add_comm 1]
    rfl

section
variable {s : State} {a : Nat} {text : List Byte}

theorem State.collect_of_end (hne : ∀ b ∈ text, b ≠ Config.sentinel)
    (hread : ∀ (k : Nat) (b : Byte), text[k]? = some b → s.mem.read (a + k) = b)
    (hin : a + text.length < s.cfg.memSize)
    (hend : s.mem.read (a + text.length) = Config.sentinel) :
    s.mem.collect (s.room a) a = (text, true) := by
  obtain ⟨f, hf⟩ : ∃ f, s.room a = text.length + (f + 1) :=
    ⟨s.cfg.memSize - a - text.length - 1, by unfold State.room; omega⟩
  rw [hf, Mem.collect_append hne hread, Mem.collect, if_pos hend, List.append_nil]

theorem State.collect_of_no_end (hne : ∀ b ∈ text, b ≠ Config.sentinel)
    (hread : ∀ (k : Nat) (b : Byte), text[k]? = some b → s.mem.read (a + k) = b)
    (hlen : text.length = s.room a) : s.mem.collect (s.room a) a = (text, false) := by
  have h := Mem.collect_append hne hread 0
  rwa [Nat.add_zero, hlen, Mem.collect, List.append_nil] at h

theorem svcWriteString_of_end (ha : a = s.lin .ds (s.r16 .dx).toNat)
    (hc : s.mem.collect (s.room a) a = (text, true)) :
    svcWriteString s = { s with
      pc := s.pc + 1,
      io := s.io ++ (if s.videoMode then [.writeBatch text s.cursor.col s.cursor.row]
        else text.map IoEvent.writeCharacter) } := by
  subst ha
  simp only [svcWriteString, hc, if_true]
  by_cases hv : s.videoMode = true
  · simp only [if_pos hv]; rfl
  · simp only [if_neg hv]; rfl

theorem svcWriteString_of_no_end (ha : a = s.lin .ds (s.r16 .dx).toNat)
    (hc : s.mem.collect (s.room a) a = (text, false)) :
    svcWriteString s =
      { s with io := s.io ++ if s.videoMode then [] else text.map IoEvent.writeCharacter }.raise
        (s.pastImage a) := by
  subst ha
  simp only [svcWriteString, hc, Bool.false_eq_true, if_false]
  by_cases hv : s.videoMode = true
  · simp only [if_pos hv, List.append_nil]
  · simp only [if_neg hv]; rfl

end

/-- Past 02h and the read without echo, the table of R302 goes on so for INT 21h. -/
theorem Service.find_dos {p : Params} {ah : Byte} (h2 : ah ≠ 0x02) (hd : ah ≠ p.dosReadNoEchoAh) :
    Service.find p 0x21 ah =
      if ah = 0x09 then some .writeString
      else if ah = 0x2C then some .getTime
      else if ah = 0x4C then some .exit
      else none := (if_neg h2).trans (if_neg hd)

/-- Settles O56: what is collected are the bytes up to the first `$`, or up to the image end. -/
theorem writeStringService : Obligations.WriteStringService := by
  intro s a text hah hdos ha hne hread
  have hfind : Service.find s.cfg 0x21 (s.r8 .ah) = some .writeString := by
    rw [hah, Service.find_dos (by decide) (Ne.symm hdos)]
    rfl
  rw [exec_int_of_find hfind]
  refine ⟨fun hin hend => ?_, fun hlen => ?_⟩
  · exact congrArg _ (svcWriteString_of_end ha (State.collect_of_end hne hread hin hend))
  · exact congrArg _ (svcWriteString_of_no_end ha (State.collect_of_no_end hne hread hlen))

/-! #### Clock, exit, and what is no service -/

theorem ofNat_toNat_of_lt {k b : Nat} (h : k < b) (hb : b ≤ 256) :
    (BitVec.ofNat 8 k).toNat = k := by
  rw [BitVec.toNat_ofNat]
  exact Nat.mod_eq_of_lt (by omega)

theorem svcGetTime_cx (s : State) : (svcGetTime s).r16 .cx =
    joinBytes (BitVec.ofNat 8 s.nextClock.hour) (BitVec.ofNat 8 s.nextClock.minute) :=
  (State.r16_setR16_ne _ _ (by decide)).trans (State.r16_setR16_same _ _ _)

theorem svcGetTime_dx (s : State) : (svcGetTime s).r16 .dx =
    joinBytes (BitVec.ofNat 8 s.nextClock.second) (BitVec.ofNat 8 s.nextClock.hundredth) :=
  State.r16_setR16_same _ _ _

theorem svcGetTime_r16 (s : State) {r : Reg16} (hcx : r ≠ .cx) (hdx : r ≠ .dx) :
    (svcGetTime s).r16 r = s.r16 r := by
  unfold svcGetTime
  dsimp only
  rw [State.r16_setR16_ne _ _ hdx, State.r16_setR16_ne _ _ hcx, State.dropClock_eq]
  rfl

/-- The halves of CX and DX are the fields of the reading. -/
theorem svcGetTime_bytes (s : State) :
    ((svcGetTime s).r8 .ch).toNat = s.nextClock.hour ∧
    ((svcGetTime s).r8 .cl).toNat = s.nextClock.minute ∧
    ((svcGetTime s).r8 .dh).toNat = s.nextClock.second ∧
    ((svcGetTime s).r8 .dl).toNat = s.nextClock.hundredth := by
  refine ⟨?_, ?_, ?_, ?_⟩
  · exact (congrArg BitVec.toNat ((congrArg highByte (svcGetTime_cx s)).trans
      (highByte_joinBytes _ _))).trans (ofNat_toNat_of_lt s.nextClock.hour.isLt (by decide))
  · exact (congrArg BitVec.toNat ((congrArg lowByte (svcGetTime_cx s)).trans
      (lowByte_joinBytes _ _))).trans (ofNat_toNat_of_lt s.nextClock.minute.isLt (by decide))
  · exact (congrArg BitVec.toNat ((congrArg highByte (svcGetTime_dx s)).trans
      (highByte_joinBytes _ _))).trans (ofNat_toNat_of_lt s.nextClock.second.isLt (by decide))
  · exact (congrArg BitVec.toNat ((congrArg lowByte (svcGetTime_dx s)).trans
      (lowByte_joinBytes _ _))).trans (ofNat_toNat_of_lt s.nextClock.hundredth.isLt (by decide))

theorem svcGetTime_rest (s : State) : (svcGetTime s).pc = s.pc ∧
    (svcGetTime s).runState = s.runState ∧ (svcGetTime s).io = s.io := by
  unfold svcGetTime
  dsimp only
  rw [State.dropClock_eq]
  exact ⟨rfl, rfl, rfl⟩

/-- Settles O57: CX and DX are put together from the reading, whose fields fit a byte. -/
theorem getTimeService : Obligations.GetTimeService := by
  intro s hah hdos
  have hfind : Service.find s.cfg 0x21 (s.r8 .ah) = some .getTime := by
    rw [hah, Service.find_dos (by decide) (Ne.symm hdos)]
    rfl
  obtain ⟨hch, hcl, hdh, hdl⟩ := svcGetTime_bytes (s.skip 1)
  obtain ⟨hpc, hrun, hio⟩ := svcGetTime_rest (s.skip 1)
  exact ⟨_, exec_int_of_find hfind, hch, hcl, hdh, hdl,
    hch ▸ Nat.le_of_lt_succ (s.skip 1).nextClock.hour.isLt,
    hcl ▸ Nat.le_of_lt_succ (s.skip 1).nextClock.minute.isLt,
    hdh ▸ Nat.le_of_lt_succ (s.skip 1).nextClock.second.isLt,
    hdl ▸ Nat.le_of_lt_succ (s.skip 1).nextClock.hundredth.isLt,
    hpc, hrun, hio, fun r hcx hdx => svcGetTime_r16 (s.skip 1) hcx hdx⟩

/-- Settles O58: the run ends with AL, in the state after the instruction. -/
theorem exitService : Obligations.ExitService := by
  intro s hah hdos
  refine exec_int_of_find (v := .exit) ?_
  rw [hah, Service.find_dos (by decide) (Ne.symm hdos)]
  rfl

theorem Service.find_eq_none {p : Params} {n ah : Byte}
    (h : (n.toNat, ah.toNat) ∉ [(0x10, 0x00), (0x10, 0x02), (0x10, 0x0B), (0x16, 0x00),
      (0x21, 0x02), (0x21, p.dosReadNoEchoAh.toNat), (0x21, 0x09), (0x21, 0x2C), (0x21, 0x4C)]) :
    Service.find p n ah = none := by
  unfold Service.find
  split_ifs <;> subst_vars <;> simp_all

/-- Settles O59: the table has no such service, and the default only diagnoses. -/
theorem unsupportedInterruptIsOnlyDiagnosed : Obligations.UnsupportedInterruptIsOnlyDiagnosed :=
  fun _ _ h => exec_int_of_none (Service.find_eq_none h)

/-! #### What INT leaves alone -/

theorem Service.find_isSome {p : Params} {n ah : Byte}
    (h : (n, ah) ∈ [(0x10, 0x00), (0x10, 0x02), (0x10, 0x0B), (0x16, 0x00), (0x21, 0x02),
      (0x21, p.dosReadNoEchoAh), (0x21, 0x2C), (0x21, 0x4C)]) :
    (Service.find p n ah).isSome = true := by
  unfold Service.find
  split_ifs <;> simp_all

section
variable {n : Byte} {s t : State}

theorem IntOutcome.kept (h : IntOutcome n s t) : t.segs = s.segs ∧ t.callStack = s.callStack ∧
    t.mem = s.mem ∧ t.curOpcode = s.curOpcode ∧ t.instrCount = s.instrCount ∧ t.cfg = s.cfg := by
  cases h <;> exact ⟨rfl, rfl, rfl, rfl, rfl, rfl⟩

theorem IntOutcome.r8_ah (h : IntOutcome n s t) : t.r8 .ah = s.r8 .ah := by
  cases h with
  | readDone _ b => exact s.r8_setR8_ne b (by decide)
  | writeChar => exact s.r8_setR8_ne _ (by decide)
  | _ => rfl

theorem IntOutcome.r16_other (h : IntOutcome n s t) {r : Reg16} (hax : r ≠ .ax) (hcx : r ≠ .cx)
    (hdx : r ≠ .dx) : t.r16 r = s.r16 r := by
  cases h with
  | readDone _ b => exact s.r16_setR8_ne b hax
  | writeChar => exact s.r16_setR8_ne _ hax
  | getTime _ cx dx => exact (State.r16_setR16_ne _ dx hdx).trans (s.r16_setR16_ne cx hcx)
  | _ => rfl

theorem IntOutcome.cx_dx (h : IntOutcome n s t) (hne : (n, s.r8 .ah) ≠ (0x21, 0x2C)) :
    t.r16 .cx = s.r16 .cx ∧ t.r16 .dx = s.r16 .dx := by
  cases h with
  | getTime hn => exact absurd (Prod.ext hn.1 hn.2) hne
  | _ => exact ⟨rfl, rfl⟩

theorem IntOutcome.cursor (h : IntOutcome n s t) (hne : (n, s.r8 .ah) ≠ (0x10, 0x02)) :
    t.cursor = s.cursor := by
  cases h with
  | setCursor hn => exact absurd (Prod.ext hn.1 hn.2) hne
  | _ => rfl

theorem IntOutcome.videoMode (h : IntOutcome n s t) (hne : (n, s.r8 .ah) ≠ (0x10, 0x00)) :
    t.videoMode = s.videoMode := by
  cases h with
  | setMode hn => exact absurd (Prod.ext hn.1 hn.2.1) hne
  | _ => rfl

theorem IntOutcome.blocked_keys (h : IntOutcome n s t) (hkey : (n, s.r8 .ah) ≠ (0x16, 0x00))
    (hdos : (n, s.r8 .ah) ≠ (0x21, s.cfg.dosReadNoEchoAh)) :
    t.blocked = s.blocked ∧ t.keys = s.keys := by
  cases h with
  | readDone hn => exact absurd hn (not_or.mpr ⟨hkey, hdos⟩)
  | readWaits hn => exact absurd hn (not_or.mpr ⟨hkey, hdos⟩)
  | _ => exact ⟨rfl, rfl⟩

theorem IntOutcome.runState (h : IntOutcome n s t) (hexit : (n, s.r8 .ah) ≠ (0x21, 0x4C))
    (hstring : (n, s.r8 .ah) ≠ (0x21, 0x09)) : t.runState = s.runState := by
  cases h with
  | exit hn => exact absurd (Prod.ext hn.1 hn.2) hexit
  | writeStringFails hn => exact absurd (Prod.ext hn.1 hn.2) hstring
  | _ => rfl

theorem IntOutcome.diag (h : IntOutcome n s t)
    (hfind : (Service.find s.cfg n (s.r8 .ah)).isSome = true)
    (hstring : (n, s.r8 .ah) ≠ (0x21, 0x09)) : t.diag = s.diag := by
  cases h with
  | writeStringFails hn => exact absurd (Prod.ext hn.1 hn.2) hstring
  | unsupported hn => rw [hn] at hfind; cases hfind
  | _ => rfl

end

/-- Settles O60: by the outcomes of INT. -/
theorem intLeavesStacksFlagsAndMemoryAlone : Obligations.IntLeavesStacksFlagsAndMemoryAlone := by
  intro n s t h
  have h := exec_int_cases h
  obtain ⟨hsegs, hcall, hmem, hop, hcount, hcfg⟩ := h.kept
  exact ⟨h.flags, hsegs, hcall, fun a => congrArg (Mem.read · a) hmem, hop, hcount, hcfg, h.r8_ah,
    fun _ => h.r16_other, h.cx_dx, h.cursor, h.videoMode, h.blocked_keys, h.runState,
    fun hn => h.diag (Service.find_isSome hn)⟩

end Sys2Proof.Machine
